-- ==== Sys2Proof/Word.lean ====
section
/-! DEFINITION. The plain value types of the engine: a word (32 bits, unsigned, rule R4), a byte of the host's message, the
widths of a command word (R34) and of the step counter (R13), and the tuple of four words that the accumulator (R9) and the
working registers (R10) are. -/

namespace Sys2Proof

/-- A word: an unsigned number of 32 bits (00_scope.md R4). -/
abbrev Word := BitVec 32

/-- A byte of the host's message or of the digest (20_memory.md R25, R26). -/
abbrev Byte := BitVec 8

/-- A command word as it stands on the pin `cmd` (30_encoding.md R34). -/
abbrev CmdWord := BitVec 40

/-- A value of the 6-bit step counter t, the selector of a micro-operation (10_state.md R13, 30_encoding.md R39). -/
abbrev StepIndex := BitVec 6

/-- Four words under the names a, b, c, d: the accumulator ACC[0..3] (R9) and the working registers W[0..3] (R10). -/
structure Quad where
  a : Word
  b : Word
  c : Word
  d : Word
  deriving DecidableEq, Repr

/-- One 64-byte block of the padded message, its first byte first (41_padding.md R57). -/
abbrev Block := Vector Byte 64

/-- Sixteen message words M[0] to M[15] (10_state.md R11). -/
abbrev Words := Vector Word 16

end Sys2Proof
end

