-- ==== Sys2Proof/Config.lean ====
section
/-! DEFINITION. What the spec leaves open, as constants nothing in Lean can evaluate: the value of a rotation outside its
domain, and the one open parameter, STEP_CYCLES. The engine has no configurable option (00_scope.md R3). -/

namespace Sys2Proof

/-- The value of rotl32(x, n) for n outside 1..31: the spec "gives it no value" (40_primitives.md R45; U1 of
93_implementation_defined.md). A free value: no step of the engine reaches it. Log entry 4 (DESIGN CHOICE, safe). -/
opaque Config.rotlOutOfRange : Word → Nat → Word

/-- STEP_CYCLES less one, uninterpreted: "OPEN parameter, positive integer, ... no rule depends on it" (00_scope.md
section 4, R3; D15). Log entry 6 (DESIGN CHOICE, safe). -/
opaque Config.stepCyclesPred : Nat

/-- Clock cycles per engine transition, a positive integer (R20, R137). Nothing in the machine reads it. -/
def Config.stepCycles : Nat := Config.stepCyclesPred + 1

end Sys2Proof
end

