-- ==== Sys2Proof/Machine/Primitives.lean ====
section
/-! DEFINITION. The datapath primitives (40_primitives.md): the adders and the rotator of the engine, and the byte and word
conversions that define what the words mean to the host. -/

namespace Sys2Proof.Machine

/-- `add32(x, y) = (x + y) mod 2^32` (R47). -/
def add32 (x y : Word) : Word := BitVec.ofNat 32 (x.toNat + y.toNat)

/-- `sum32(x1, ..., xn)`: the sum of unbounded integers, modulo 2^32 (R47). -/
def sum32 (xs : List Word) : Word := BitVec.ofNat 32 (xs.map BitVec.toNat).sum

/-- `rotl32(x, n)`: `((x << n) | (x >> (32-n))) mod 2^32`, for n in 1..31 (R45); outside that domain a free value (U1). -/
def rotl32 (x : Word) (n : Nat) : Word :=
  if 1 ≤ n ∧ n ≤ 31 then BitVec.ofNat 32 ((x.toNat <<< n) ||| (x.toNat >>> (32 - n)))
  else Config.rotlOutOfRange x n

/-- `le_bytes(x, n)`: byte m is `(x >> 8m) mod 256`, least significant byte first (R49). The precondition x < 2^(8n) is
the width of x (U2). -/
def leBytes (n : Nat) (x : BitVec (8 * n)) : List Byte :=
  (List.range n).map fun m => BitVec.ofNat 8 (x.toNat >>> (8 * m))

/-- `le_word(q0, q1, q2, q3) = q0 + 2^8 * q1 + 2^16 * q2 + 2^24 * q3` (R50). -/
def leWord (q0 q1 q2 q3 : Byte) : Word :=
  BitVec.ofNat 32 (q0.toNat + 2 ^ 8 * q1.toNat + 2 ^ 16 * q2.toNat + 2 ^ 24 * q3.toNat)

/-- `decode_words_le(bytes)`, for a length that is a multiple of 4 (R50); there is no value for another length (U3). -/
def decodeWordsLe : List Byte → Option (List Word)
  | [] => some []
  | q0 :: q1 :: q2 :: q3 :: rest => (decodeWordsLe rest).map (leWord q0 q1 q2 q3 :: ·)
  | _ => none

/-- The sixteen words of a block, word k from the block bytes 4k to 4k+3 (20_memory.md R25, 41_padding.md R58). -/
def blockWords (p : Block) : Words :=
  Vector.ofFn fun k => leWord p[4 * k.val] p[4 * k.val + 1] p[4 * k.val + 2] p[4 * k.val + 3]

end Sys2Proof.Machine
end

