-- ==== Sys2Proof/Syntax.lean ====
section
/-! DEFINITION. The instructions of the engine as terms (30_encoding.md): the five host commands and the four STEP
micro-operations, the two kinds of code that carry them, and the lines of the assembler syntax (R41, R42). -/

namespace Sys2Proof

/-- The instructions: one constructor per mnemonic of spec/opcode_table.json. The table's 64 STEP rows are the four STEP
mnemonics at the sixteen values of their operand, the local step i = t[3:0] (R39; log entry 7). -/
inductive Instr where
  /-- INIT: the accumulator takes the initial values (45_commands.md R89). -/
  | init
  /-- LDW k, v: load message word k with v (R90). -/
  | ldw (k : BitVec 4) (v : Word)
  /-- RUN: compress the buffered block (44_block_compression.md R79). -/
  | run
  /-- RDD j: read accumulator word j (R91). -/
  | rdd (j : BitVec 2)
  /-- RDS: read STATUS (R92). -/
  | rds
  /-- STEP.F, local step i of round 1, t = 00iiii (43_step.md R74). -/
  | stepF (i : BitVec 4)
  /-- STEP.G, local step i of round 2, t = 01iiii (R75). -/
  | stepG (i : BitVec 4)
  /-- STEP.H, local step i of round 3, t = 10iiii (R76). -/
  | stepH (i : BitVec 4)
  /-- STEP.I, local step i of round 4, t = 11iiii (R77). -/
  | stepI (i : BitVec 4)
  deriving DecidableEq, Repr

/-- The four rounds, named by their nonlinear function: "a small closed enumeration ... of size 4 selected by round
number" (42_round_functions.md R64). -/
inductive RoundFn where
  | F
  | G
  | H
  | I
  deriving DecidableEq, Repr

/-- What carries an instruction: a command word on the pin `cmd` (R34) or a value of the step counter (R39). -/
inductive Code where
  | cmd (c : CmdWord)
  | sel (t : StepIndex)
  deriving DecidableEq, Repr

/-- One line of assembler text with its operands as written: plain numbers and bytes (R41), and the pseudo-instructions
LDBLK, HASHBLK and RDDIG (R42). -/
inductive AsmLine where
  | init
  | ldw (k v : Nat)
  | run
  | rdd (j : Nat)
  | rds
  | word (w : Nat)
  | ldblk (bytes : List Byte)
  | hashblk (bytes : List Byte)
  | rddig
  deriving DecidableEq, Repr

end Sys2Proof
end

