-- ==== Sys2Proof/WellFormed.lean ====
section
/-! DEFINITION. Which terms are well formed. An Instr carries its operands at the width of their field (R36, R39), so
every Instr is well formed by its type; a line of assembler text carries plain numbers, and the checks are the assembler's
(30_encoding.md R41, R42). -/

namespace Sys2Proof

/-- Every operand of an instruction has the width of its field (R36, R39), so no instruction is ill formed. -/
def Instr.wellFormed : Instr → Bool
  | .init => true
  | .ldw _ _ => true
  | .run => true
  | .rdd _ => true
  | .rds => true
  | .stepF _ => true
  | .stepG _ => true
  | .stepH _ => true
  | .stepI _ => true

/-- The assembler's checks: "An assembler refuses `LDW` with k > 15 or v > `0xFFFFFFFF`, and `RDD` with j > 3" (R41); a
`.word` has 40 bits (R41), LDBLK and HASHBLK have 64 byte values (R42). -/
def AsmLine.wellFormed : AsmLine → Bool
  | .init => true
  | .ldw k v => decide (k < 16) && decide (v < 2 ^ 32)
  | .run => true
  | .rdd j => decide (j < 4)
  | .rds => true
  | .word w => decide (w < 2 ^ 40)
  | .ldblk bytes => decide (bytes.length = 64)
  | .hashblk bytes => decide (bytes.length = 64)
  | .rddig => true

end Sys2Proof
end

