-- ==== Sys2Proof/Decode.lean ====
section
/-! DEFINITION. The decoder of command words (30_encoding.md R34 to R38), the decoder of step selectors (R39), and after
them the encoder written from the same tables. Decoding is total: a word that is none of the five commands is rejected by
the name ILLEGAL (R35). -/

namespace Sys2Proof

/-- What a code decodes to: an instruction, or the illegal command, written ILLEGAL (R35, R38; log entry 5). -/
inductive Decoded where
  | instr (i : Instr)
  | illegal
  deriving DecidableEq, Repr

/-- The field `op` = cmd[39:36] (R34). -/
def cmdOp (c : CmdWord) : BitVec 4 := c.extractLsb' 36 4

/-- The field `idx` = cmd[35:32] (R34, R36). -/
def cmdIdx (c : CmdWord) : BitVec 4 := c.extractLsb' 32 4

/-- The field `data` = cmd[31:0] (R34, R36). -/
def cmdData (c : CmdWord) : Word := c.extractLsb' 0 32

/-- An instruction whose word is legal only if its must-be-zero fields are zero (R37, R38). -/
def decodeIf (legal : Bool) (i : Instr) : Decoded := if legal then .instr i else .illegal

/-- Decoding a command word by the opcode map (R35, R36, R37). -/
def decodeCommand (c : CmdWord) : Decoded :=
  match cmdOp c with
  | 1 => decodeIf (cmdIdx c == 0 && cmdData c == 0) .init
  | 2 => .instr (.ldw (cmdIdx c) (cmdData c))
  | 3 => decodeIf (cmdIdx c == 0 && cmdData c == 0) .run
  | 4 => decodeIf ((cmdIdx c).extractLsb' 2 2 == 0 && cmdData c == 0) (.rdd ((cmdIdx c).extractLsb' 0 2))
  | 5 => decodeIf (cmdIdx c == 0 && cmdData c == 0) .rds
  | _ => .illegal

/-- The round number r = t[5:4] (R39, R66). -/
def roundNumber (t : StepIndex) : BitVec 2 := t.extractLsb' 4 2

/-- The local step i = t[3:0] (R39, R66). -/
def localStep (t : StepIndex) : BitVec 4 := t.extractLsb' 0 4

/-- The round with number r: r = 0 is F, 1 is G, 2 is H, 3 is I (R39, R64). -/
def RoundFn.ofNumber (r : BitVec 2) : RoundFn :=
  match r with
  | 0 => .F
  | 1 => .G
  | 2 => .H
  | 3 => .I

/-- The round number of a round (R39). -/
def RoundFn.number : RoundFn → BitVec 2
  | .F => 0
  | .G => 1
  | .H => 2
  | .I => 3

/-- The step index t = 16 * r + i, as the six bits {r, i} (R39). -/
def selector (fn : RoundFn) (i : BitVec 4) : StepIndex := fn.number ++ i

/-- The micro-operation a value of t selects: "Every value of t is a valid entry" (R39). -/
def decodeSelector (t : StepIndex) : Instr :=
  match RoundFn.ofNumber (roundNumber t) with
  | .F => .stepF (localStep t)
  | .G => .stepG (localStep t)
  | .H => .stepH (localStep t)
  | .I => .stepI (localStep t)

/-- Decoding a code of either kind. -/
def decode : Code → Decoded
  | .cmd c => decodeCommand c
  | .sel t => .instr (decodeSelector t)

/-- A command word from its three fields (R34). -/
def cmdWord (op idx : BitVec 4) (data : Word) : CmdWord := op ++ idx ++ data

/-- The code of an instruction: the command word of R35, or the step selector of R39. -/
def encode : Instr → Code
  | .init => .cmd (cmdWord 1 0 0)
  | .ldw k v => .cmd (cmdWord 2 k v)
  | .run => .cmd (cmdWord 3 0 0)
  | .rdd j => .cmd (cmdWord 4 (0#2 ++ j) 0)
  | .rds => .cmd (cmdWord 5 0 0)
  | .stepF i => .sel (selector .F i)
  | .stepG i => .sel (selector .G i)
  | .stepH i => .sel (selector .H i)
  | .stepI i => .sel (selector .I i)

/-- The number of bits of a code: commands 40, selectors 6 (R40). -/
def Code.length : Code → Nat
  | .cmd _ => 40
  | .sel _ => 6

/-- Whether the host gives the instruction as a command; the others are selected by t alone (R39). -/
def Instr.isCommand : Instr → Bool
  | .init => true
  | .ldw _ _ => true
  | .run => true
  | .rdd _ => true
  | .rds => true
  | .stepF _ => false
  | .stepG _ => false
  | .stepH _ => false
  | .stepI _ => false

/-- The instruction a decoded code holds, if it is one. -/
def Decoded.instr? : Decoded → Option Instr
  | .instr i => some i
  | .illegal => none

/-- The code behind a row's number in spec/opcode_table.json (R43): a row of 40 bits is a command word, a shorter row is a
step selector of 6 bits; a number too wide for its kind is no code (log entry 8). -/
def codeOfTableWord (nbits w : Nat) : Option Code :=
  if nbits < 40 then
    if w < 2 ^ 6 then some (.sel (BitVec.ofNat 6 w)) else none
  else
    if w < 2 ^ 40 then some (.cmd (BitVec.ofNat 40 w)) else none

/-- The instruction the decoder reads from an instruction numbered as spec/opcode_table.json numbers it. -/
def decodeTableWord (nbits w : Nat) : Option Instr :=
  match codeOfTableWord nbits w with
  | some code => (decode code).instr?
  | none => none

end Sys2Proof
end

