-- ==== Sys2Proof/Machine/Tables.lean ====
section
/-! DEFINITION. The fixed tables of the engine (43_step.md; constants, not state: 10_state.md R18): the message scheduler,
the rotation amounts S and the round constants T. -/

namespace Sys2Proof.Machine

/-- The message index k of a step: products and sums of ordinary integers, reduced modulo 16 at the end (R67). -/
def msgIndex (fn : RoundFn) (i : BitVec 4) : BitVec 4 :=
  match fn with
  | .F => i
  | .G => BitVec.ofNat 4 (5 * i.toNat + 1)
  | .H => BitVec.ofNat 4 (3 * i.toNat + 5)
  | .I => BitVec.ofNat 4 (7 * i.toNat)

/-- The four rotation amounts of a round (R69; the spec's decision D21). -/
def rotGroup : RoundFn → Vector Nat 4
  | .F => #v[7, 12, 17, 22]
  | .G => #v[5, 9, 14, 20]
  | .H => #v[4, 11, 16, 23]
  | .I => #v[6, 10, 15, 21]

/-- The rotation amount S[t]: it "depends only on `t[5:4]` and `t[1:0]`" (R68, R69). -/
def rotAmount (t : StepIndex) : Nat :=
  (rotGroup (RoundFn.ofNumber (roundNumber t)))[(localStep t).toNat % 4]

/-- T[1] to T[16] (R70). -/
def roundConstants1 : List Word :=
  [0xd76aa478, 0xe8c7b756, 0x242070db, 0xc1bdceee, 0xf57c0faf, 0x4787c62a, 0xa8304613, 0xfd469501,
   0x698098d8, 0x8b44f7af, 0xffff5bb1, 0x895cd7be, 0x6b901122, 0xfd987193, 0xa679438e, 0x49b40821]

/-- T[17] to T[32] (R70). -/
def roundConstants2 : List Word :=
  [0xf61e2562, 0xc040b340, 0x265e5a51, 0xe9b6c7aa, 0xd62f105d, 0x02441453, 0xd8a1e681, 0xe7d3fbc8,
   0x21e1cde6, 0xc33707d6, 0xf4d50d87, 0x455a14ed, 0xa9e3e905, 0xfcefa3f8, 0x676f02d9, 0x8d2a4c8a]

/-- T[33] to T[48] (R70). -/
def roundConstants3 : List Word :=
  [0xfffa3942, 0x8771f681, 0x6d9d6122, 0xfde5380c, 0xa4beea44, 0x4bdecfa9, 0xf6bb4b60, 0xbebfbc70,
   0x289b7ec6, 0xeaa127fa, 0xd4ef3085, 0x04881d05, 0xd9d4d039, 0xe6db99e5, 0x1fa27cf8, 0xc4ac5665]

/-- T[49] to T[64] (R70). -/
def roundConstants4 : List Word :=
  [0xf4292244, 0x432aff97, 0xab9423a7, 0xfc93a039, 0x655b59c3, 0x8f0ccc92, 0xffeff47d, 0x85845dd1,
   0x6fa87e4f, 0xfe2ce6e0, 0xa3014314, 0x4e0811a1, 0xf7537e82, 0xbd3af235, 0x2ad7d2bb, 0xeb86d391]

/-- The table of round constants, T[1] first (R70). -/
def roundConstants : List Word := roundConstants1 ++ roundConstants2 ++ roundConstants3 ++ roundConstants4

/-- The round constant of step t, `T[t + 1]` (R71); the table is stored from index 0, so step t reads entry t (U4). -/
def roundConstant (t : StepIndex) : Word := roundConstants[t.toNat]'(Nat.lt_of_lt_of_eq t.isLt (by decide))

end Sys2Proof.Machine
end

