-- ==== Sys2Proof/Machine/Round.lean ====
section
/-! DEFINITION. The datapath of a block: the nonlinear functions (42_round_functions.md), the step with its role rotation
(43_step.md R72, R73) and the compression of a block as one function (44_block_compression.md R84). -/

namespace Sys2Proof.Machine

/-- `F(x, y, z) = (x AND y) OR (NOT32(x) AND z)` (R60). -/
def fnF (x y z : Word) : Word := (x &&& y) ||| (~~~x &&& z)

/-- `G(x, y, z) = (x AND z) OR (y AND NOT32(z))` (R61). -/
def fnG (x y z : Word) : Word := (x &&& z) ||| (y &&& ~~~z)

/-- `H(x, y, z) = x XOR y XOR z` (R62). -/
def fnH (x y z : Word) : Word := x ^^^ y ^^^ z

/-- `I(x, y, z) = y XOR (x OR NOT32(z))` (R63). -/
def fnI (x y z : Word) : Word := y ^^^ (x ||| ~~~z)

/-- `FUNC_r`: the nonlinear function of a round (R64). -/
def roundFunction : RoundFn → Word → Word → Word → Word
  | .F => fnF
  | .G => fnG
  | .H => fnH
  | .I => fnI

/-- The result of one step on working registers w with message word x, at step index t (R72):
`add32(rotl32(sum32(a, f, x, T[t+1]), S[t]), b)`. -/
def stepResult (fn : RoundFn) (t : StepIndex) (w : Quad) (x : Word) : Word :=
  add32 (rotl32 (sum32 [w.a, roundFunction fn w.b w.c w.d, x, roundConstant t]) (rotAmount t)) w.b

/-- The role rotation `(a, b, c, d) <- (d, result, b, c)` (R73; 90_conflicts.md C1). -/
def rotateRoles (w : Quad) (result : Word) : Quad := ⟨w.d, result, w.b, w.c⟩

/-- What local step i of a round does to the working registers, with message words m (R72, R73). -/
def roundStep (fn : RoundFn) (i : BitVec 4) (w : Quad) (m : Words) : Quad :=
  rotateRoles w (stepResult fn (selector fn i) w m[(msgIndex fn i).toNat])

/-- `step_t(w, m)` of R84: the step that the step index t selects. -/
def stepAt (t : StepIndex) (w : Quad) (m : Words) : Quad :=
  roundStep (RoundFn.ofNumber (roundNumber t)) (localStep t) w m

/-- `w_n` of R84: the working registers after the first n steps, from `w_0 = acc`. -/
def workAfter (acc : Quad) (m : Words) : Nat → Quad
  | 0 => acc
  | n + 1 => stepAt (BitVec.ofNat 6 n) (workAfter acc m n) m

/-- The feed-forward: element-wise addition modulo 2^32 (R82, R83). -/
def addQuad (x y : Quad) : Quad := ⟨add32 x.a y.a, add32 x.b y.b, add32 x.c y.c, add32 x.d y.d⟩

/-- `compress(acc, m)` (R84). -/
def compress (acc : Quad) (m : Words) : Quad := addQuad acc (workAfter acc m 64)

end Sys2Proof.Machine
end

