-- ==== Sys2Proof/Machine/State.lean ====
section
/-! DEFINITION. The state of the engine (10_state.md), the levels of the input pins the host drives (R20), the engine's two
ways to stop short of a next state (neither is ever taken), and the state right after reset (R21). -/

namespace Sys2Proof.Machine

/-- The phases of the state machine (10_state.md R14). Their binary code is not visible and is not specified. -/
inductive Phase where
  /-- Waiting for a command; no fault recorded. -/
  | idle
  /-- Doing the 64 steps of a block; t says which is next. -/
  | step
  /-- The 64 steps are done; the feed-forward addition is next. -/
  | feed
  /-- A fault is recorded; state-changing commands are discarded. -/
  | halt
  deriving DecidableEq, Repr

/-- The levels of the engine's input pins at one transition time (10_state.md R20). -/
structure HostPins where
  /-- `rst`: 1 asks for RESET (R129). -/
  rst : Bool
  /-- `cmd_valid`: the host presents a command on `cmd` (R33). -/
  cmdValid : Bool
  /-- `cmd`: the command word (R34). -/
  cmd : CmdWord
  deriving DecidableEq, Repr

/-- All state of the engine (10_state.md section 1), and the host's coming input. -/
structure State where
  /-- Accumulator A, B, C, D = ACC[0..3] (R9). -/
  acc : Quad
  /-- Working registers a, b, c, d = W[0..3] (R10). -/
  work : Quad
  /-- Message word registers M[0..15] (R11). -/
  msg : Vector Word 16
  /-- Message word valid bits MV (R12). -/
  mv : BitVec 16
  /-- Step counter t (R13), the engine's program counter. -/
  t : StepIndex
  /-- Phase (R14). -/
  phase : Phase
  /-- Fault cause FCODE (R16). -/
  fcode : BitVec 4
  /-- Response valid RSPV (R19). -/
  rspv : Bool
  /-- Response word RSP (R19). -/
  rsp : Word
  /-- THE MODEL'S OWN FIELD: the input pin levels of the coming transition times, the next one first. An empty list is a
  host that presents nothing and does not assert `rst`. Log entry 1 (DESIGN CHOICE). -/
  host : List HostPins
  deriving DecidableEq, Repr

/-- Reasons for the machine to stop with a fault: none. The engine's own faults (60_exceptions.md) are next states in
phase HALT, and every transition is defined on every state (R15, R110), so no constructor is needed and none is raised. -/
inductive Fault where
  deriving DecidableEq, Repr

/-- Reasons to give an instruction no meaning. -/
inductive Refusal where
  /-- Raised by an arm of exec for an instruction with no meaning yet: by no arm, since all have theirs. Safe. -/
  | notModelled (mnemonic : String)
  deriving DecidableEq, Repr

/-- The initial value of the accumulator: the four "fixed initial values" (R9, R21, R89). -/
def initialAcc : Quad := ⟨0x67452301, 0xefcdab89, 0x98badcfe, 0x10325476⟩

/-- The state right after RESET (R21, R130), with a host that presents nothing (log entry 1). -/
def State.reset : State where
  acc := initialAcc
  work := ⟨0, 0, 0, 0⟩
  msg := Vector.replicate 16 0
  mv := 0
  t := 0
  phase := .idle
  fcode := 0
  rspv := false
  rsp := 0
  host := []

end Sys2Proof.Machine
end

