-- ==== Sys2Proof/Machine/Operands.lean ====
section
/-! DEFINITION. The operand forms of the instructions: the accumulator word an RDD names, the message word an LDW writes, the
message word and the working registers a STEP reads and writes (45_commands.md R95, 43_step.md). -/

namespace Sys2Proof.Machine

/-- `ACC[j]`: 0 = A, 1 = B, 2 = C, 3 = D (R6, R24). -/
def State.accWord (s : State) (j : BitVec 2) : Word :=
  match j with
  | 0 => s.acc.a
  | 1 => s.acc.b
  | 2 => s.acc.c
  | 3 => s.acc.d

/-- `M[k]` (R11). -/
def State.msgWord (s : State) (k : BitVec 4) : Word := s.msg[k.toNat]

/-- `M[k] <- v` (R90). -/
def State.setMsgWord (s : State) (k : BitVec 4) (v : Word) : State := { s with msg := s.msg.set k.toNat v }

/-- The working registers take what local step i of a round computes from them and the message registers (R72, R73). -/
def State.applyStep (s : State) (fn : RoundFn) (i : BitVec 4) : State := { s with work := roundStep fn i s.work s.msg }

end Sys2Proof.Machine
end

