-- ==== Sys2Proof/Machine/Flags.lean ====
section
/-! DEFINITION. The flag-like state and what is computed from it: the valid bits MV (R12), the STATUS word (R17), the fault
codes (60_exceptions.md R106) and the output pins (R20). There is no other flag (R22). -/

namespace Sys2Proof.Machine

/-- `MV[k] <- 1`; the other fifteen bits keep their values (R90). -/
def State.setValid (s : State) (k : BitVec 4) : State := { s with mv := s.mv ||| BitVec.twoPow 16 k.toNat }

/-- All sixteen message words are loaded: `MV = 0xFFFF` (R80). -/
def State.blockComplete (s : State) : Bool := s.mv == 0xffff

/-- `STATUS = {0[11:0], FCODE[3:0], MV[15:0]}` (R17). -/
def State.status (s : State) : Word := 0#12 ++ s.fcode ++ s.mv

/-- Fault code 1, ILLEGAL_CMD (R106). -/
def illegalCmd : BitVec 4 := 1

/-- Fault code 2, BLOCK_INCOMPLETE (R106). -/
def blockIncomplete : BitVec 4 := 2

/-- Pin `busy`: 1 when phase is STEP or FEED (R14, R20). -/
def State.busy (s : State) : Bool :=
  match s.phase with
  | .idle => false
  | .step => true
  | .feed => true
  | .halt => false

/-- Pin `cmd_ready`: 1 when phase is IDLE or HALT (R14, R20). -/
def State.cmdReady (s : State) : Bool := !s.busy

/-- Pin `fault`: 1 when `FCODE != 0` (R20). -/
def State.faultPin (s : State) : Bool := s.fcode != 0

/-- Pin `rsp_valid` (R20). -/
def State.rspValidPin (s : State) : Bool := s.rspv

/-- Pin `rsp` (R20). -/
def State.rspPin (s : State) : Word := s.rsp

end Sys2Proof.Machine
end

