-- ==== Sys2Proof/Machine/Ops.lean ====
section
/-! DEFINITION. The shared operations of the transitions (10_state.md R15): the response register (R19), fault entry (R118) and
the only way out of it (R120, R21), the acceptance of a command by phase (R33, R93), the advance of the step counter (R81),
the sampling of the host's pins and the choice of the next transition (R114). -/

namespace Sys2Proof.Machine

/-- `RSPV <- 0 ; RSP <- 0`: what every transition without a response writes (R19). -/
def State.clearResponse (s : State) : State := { s with rspv := false, rsp := 0 }

/-- `respond(v)`: `RSPV <- 1, RSP <- v` (R19). -/
def State.respond (s : State) (v : Word) : State := { s with rspv := true, rsp := v }

/-- Fault entry, `raise Fault(code)` (R118): FCODE records the code, the phase becomes HALT, nothing else is saved. -/
def State.raiseFault (s : State) (code : BitVec 4) : State :=
  State.clearResponse { s with fcode := code, phase := .halt }

/-- The RESET transition, the only return from a fault (R21, R120, R131). The coming input is the host's and stays. -/
def State.resetEngine (s : State) : State := { State.reset with host := s.host }

/-- What the acceptance of a command does, by phase: `inIdle` in IDLE, `inHalt` in HALT (R93). In STEP and FEED a command
"is not accepted, has no effect, and is not remembered" (R33; log entry 3). -/
def State.accept (s : State) (inIdle inHalt : State → State) : State :=
  match s.phase with
  | .idle => inIdle s
  | .halt => inHalt s
  | .step => s
  | .feed => s

/-- The sequencing after a step: at t = 63 the phase becomes FEED and t stays, else t advances (R81, R13). -/
def State.advanceStep (s : State) : State :=
  if s.t = 63 then { s with phase := .feed } else { s with t := s.t + 1 }

/-- The STEP transition at local step i of a round (R81), enabled when the phase is STEP and t selects it (R15, R39);
"The engine state changes only by these transitions", so a step that is not selected changes nothing (log entry 3). -/
def State.stepTransition (s : State) (fn : RoundFn) (i : BitVec 4) : State :=
  if s.phase = .step ∧ s.t = selector fn i then (s.applyStep fn i).advanceStep.clearResponse else s

/-- The FEED transition (R82), enabled when the phase is FEED. -/
def State.feedTransition (s : State) : State :=
  State.clearResponse { s with acc := addQuad s.acc s.work, mv := 0, t := 0, phase := .idle }

/-- The WAIT transition (R15). -/
def State.waitTransition (s : State) : State := s.clearResponse

/-- The acceptance of a word that decodes to ILLEGAL: Fault(1) in IDLE (R94), discarded in HALT (R93). -/
def State.illegalTransition (s : State) : State := s.accept (·.raiseFault illegalCmd) State.clearResponse

/-- Pins of a host that presents nothing (`cmd_valid` = 0) and does not assert `rst` (R38). -/
def HostPins.quiet : HostPins := ⟨false, false, 0⟩

/-- Pins of a host that presents the command word c (R33). -/
def HostPins.present (c : CmdWord) : HostPins := ⟨false, true, c⟩

/-- The pin levels at the next transition time (log entry 1). -/
def State.pins (s : State) : HostPins := s.host.headD HostPins.quiet

/-- One transition time passes: its pin levels are used up, whether or not a command was accepted (R33). -/
def State.tick (s : State) : State := { s with host := s.host.tail }

/-- What the next transition is (R15). -/
inductive Selected where
  | reset
  | instr (i : Instr)
  | illegal
  | feed
  | wait
  deriving DecidableEq, Repr

/-- The command a decoded word selects. -/
def Selected.ofDecoded : Decoded → Selected
  | .instr i => .instr i
  | .illegal => .illegal

/-- The command the host presents, or none, at a time the engine can accept one (R15, R33). -/
def HostPins.selectCommand (p : HostPins) : Selected :=
  if p.cmdValid then Selected.ofDecoded (decodeCommand p.cmd) else .wait

/-- The choice of the next transition, in the order of R114: reset first, then by phase. -/
def State.select (s : State) : Selected :=
  if s.pins.rst then .reset
  else
    match s.phase with
    | .step => .instr (decodeSelector s.t)
    | .feed => .feed
    | .idle => s.pins.selectCommand
    | .halt => s.pins.selectCommand

end Sys2Proof.Machine
end

