-- ==== Sys2Proof/Machine/Commands.lean ====
section
/-! DEFINITION. The meanings of the five host commands (45_commands.md R89 to R93; RUN: 44_block_compression.md R79, R80). Each
says what the command does when accepted in phase IDLE, and what HALT makes of it (R93). -/

namespace Sys2Proof.Machine

/-- INIT: the accumulator takes the initial values; nothing else is written (R89). Discarded in HALT (R93). -/
def execInit (s : State) : Host.Outcome State Fault Refusal :=
  .next (s.accept (fun s => State.clearResponse { s with acc := initialAcc }) State.clearResponse)

/-- LDW k, v: `M[k] <- v`, `MV[k] <- 1` (R90). Discarded in HALT (R93). -/
def execLdw (k : BitVec 4) (v : Word) (s : State) : Host.Outcome State Fault Refusal :=
  .next (s.accept (fun s => ((s.setMsgWord k v).setValid k).clearResponse) State.clearResponse)

/-- RUN on a complete block: the working registers start as a copy of the accumulator (R88), t at 0 (R79). -/
def State.startRun (s : State) : State := State.clearResponse { s with work := s.acc, t := 0, phase := .step }

/-- RUN: starts the 64 steps if `MV = 0xFFFF`, else raises Fault(2) (R79, R80, R108). Discarded in HALT (R93). -/
def execRun (s : State) : Host.Outcome State Fault Refusal :=
  .next (s.accept (fun s => if s.blockComplete then s.startRun else s.raiseFault blockIncomplete) State.clearResponse)

/-- RDD j: responds `ACC[j]`, in IDLE (R91) and in HALT (R93). -/
def execRdd (j : BitVec 2) (s : State) : Host.Outcome State Fault Refusal :=
  .next (s.accept (fun s => s.respond (s.accWord j)) (fun s => s.respond (s.accWord j)))

/-- RDS: responds STATUS, in IDLE (R92) and in HALT (R93). -/
def execRds (s : State) : Host.Outcome State Fault Refusal :=
  .next (s.accept (fun s => s.respond s.status) (fun s => s.respond s.status))

end Sys2Proof.Machine
end

