-- ==== Sys2Proof/Machine/Steps.lean ====
section
/-! DEFINITION. The meanings of the four STEP micro-operations (43_step.md R74 to R77), each with the sequencing of the STEP
transition it is performed in (44_block_compression.md R81). -/

namespace Sys2Proof.Machine

/-- STEP.F at local step i: function F, message word `M[i]` (R74). -/
def execStepF (i : BitVec 4) (s : State) : Host.Outcome State Fault Refusal := .next (s.stepTransition .F i)

/-- STEP.G at local step i: function G, message word `M[(5i+1) mod 16]` (R75). -/
def execStepG (i : BitVec 4) (s : State) : Host.Outcome State Fault Refusal := .next (s.stepTransition .G i)

/-- STEP.H at local step i: function H, message word `M[(3i+5) mod 16]` (R76). -/
def execStepH (i : BitVec 4) (s : State) : Host.Outcome State Fault Refusal := .next (s.stepTransition .H i)

/-- STEP.I at local step i: function I, message word `M[(7i) mod 16]` (R77). -/
def execStepI (i : BitVec 4) (s : State) : Host.Outcome State Fault Refusal := .next (s.stepTransition .I i)

end Sys2Proof.Machine
end

