-- ==== Sys2Proof/Machine/Dispatch.lean ====
section
/-! DEFINITION. exec: one arm per constructor of Instr, each a direct call of that instruction's meaning. -/

namespace Sys2Proof.Machine

def exec (i : Instr) (s : State) : Host.Outcome State Fault Refusal :=
  match i with
  | .init => Sys2Proof.Machine.execInit s
  | .ldw k v => Sys2Proof.Machine.execLdw k v s
  | .run => Sys2Proof.Machine.execRun s
  | .rdd j => Sys2Proof.Machine.execRdd j s
  | .rds => Sys2Proof.Machine.execRds s
  | .stepF n => Sys2Proof.Machine.execStepF n s
  | .stepG n => Sys2Proof.Machine.execStepG n s
  | .stepH n => Sys2Proof.Machine.execStepH n s
  | .stepI n => Sys2Proof.Machine.execStepI n s

end Sys2Proof.Machine
end

