-- ==== Sys2Proof/Machine/Step.lean ====
section
/-! DEFINITION. One transition of the engine (10_state.md R15), and the placing of an instruction where the next transition
takes it from. -/

namespace Sys2Proof.Machine

/-- One transition: the pins of this transition time are sampled, and the transition that R114 selects is performed. -/
def step (s : State) : Host.Outcome State Fault Refusal :=
  match s.select with
  | .reset => .next s.tick.resetEngine
  | .instr i => exec i s.tick
  | .illegal => .next s.tick.illegalTransition
  | .feed => .next s.tick.feedTransition
  | .wait => .next s.tick.waitTransition

/-- s with the instruction numbered w placed where the next step takes it. A command word (a row of 40 bits) stands on the
pins at the next transition time, and a busy engine is put in phase IDLE, where it accepts one (R33). A step selector (a
shorter row) stands in the step counter, in phase STEP, with `rst` = 0 at the next transition time (R39). Log entry 2. -/
def State.withFetchWord (s : State) (nbits w : Nat) : State :=
  if nbits < 40 then
    { s with
      phase := .step
      t := BitVec.ofNat 6 w
      host := { s.pins with rst := false } :: s.host.tail }
  else
    { s with
      phase := if s.busy then .idle else s.phase
      host := HostPins.present (BitVec.ofNat 40 w) :: s.host.tail }

end Sys2Proof.Machine
end

