-- ==== Sys2Proof/Machine/Assembler.lean ====
section
/-! DEFINITION. The assembler syntax (30_encoding.md R41) and the pseudo-instructions (R42): what command words a line stands
for. A duty of whoever writes programs; the engine sees only the words. -/

namespace Sys2Proof.Machine

/-- The 40 bits of a code on the command port; a step selector has no word there (R39: "The host cannot give a
micro-operation"). -/
def commandWord? (i : Instr) : Option CmdWord :=
  match encode i with
  | .cmd c => some c
  | .sel _ => none

/-- `INIT` as a word (R41). -/
def initWord : CmdWord := 0x1000000000

/-- `LDW k, v` as a word: `0x2000000000 + k * 2^32 + v` (R41). -/
def ldwWord (k v : Nat) : CmdWord := BitVec.ofNat 40 (0x2000000000 + k * 2 ^ 32 + v)

/-- `RUN` as a word (R41). -/
def runWord : CmdWord := 0x3000000000

/-- `RDD j` as a word: `0x4000000000 + j * 2^32` (R41). -/
def rddWord (j : Nat) : CmdWord := BitVec.ofNat 40 (0x4000000000 + j * 2 ^ 32)

/-- `RDS` as a word (R41). -/
def rdsWord : CmdWord := 0x5000000000

/-- Sixteen LDW in the order of their indices (R42). -/
def loadWords (m : Words) : List CmdWord := (List.finRange 16).map fun k => ldwWord k.val m[k].toNat

/-- `LDBLK p0 ... p63` (R42). -/
def loadBlock (p : Block) : List CmdWord := loadWords (blockWords p)

/-- `HASHBLK p0 ... p63`: LDBLK, then RUN (R42). -/
def hashBlock (p : Block) : List CmdWord := loadBlock p ++ [runWord]

/-- `RDDIG`: RDD 0 to RDD 3, in this order (R42). -/
def readDigest : List CmdWord := [rddWord 0, rddWord 1, rddWord 2, rddWord 3]

/-- A list of 64 byte values as a block. -/
def blockOfBytes? (bytes : List Byte) : Option Block :=
  if h : bytes.length = 64 then some ⟨bytes.toArray, by simpa using h⟩ else none

/-- The command words of a line that passes the assembler's checks (R41, R42). -/
def AsmLine.words? : AsmLine → Option (List CmdWord)
  | .init => some [initWord]
  | .ldw k v => some [ldwWord k v]
  | .run => some [runWord]
  | .rdd j => some [rddWord j]
  | .rds => some [rdsWord]
  | .word w => some [BitVec.ofNat 40 w]
  | .ldblk bytes => (blockOfBytes? bytes).map loadBlock
  | .hashblk bytes => (blockOfBytes? bytes).map hashBlock
  | .rddig => some readDigest

/-- The assembler: refuses an ill-formed line, for it has no encoding (R41). -/
def assembleLine (l : AsmLine) : Option (List CmdWord) := if l.wellFormed then AsmLine.words? l else none

end Sys2Proof.Machine
end

