-- ==== Sys2Proof/Machine/Padding.lean ====
section
/-! DEFINITION. The host's duties around the engine (00_scope.md R2): message preparation (41_padding.md) and the digest as
bytes and text (46_digest_protocol.md R98 to R100). None of it is engine hardware. -/

namespace Sys2Proof.Machine

/-- `padding_length(L) = 64 - ((L + 8) mod 64)` (R53). -/
def paddingLength (len : Nat) : Nat := 64 - (len + 8) % 64

/-- `build_padding(L)`: "one byte `0x80` followed by `(padding_length - 1)` zero bytes" (R54). -/
def buildPadding (len : Nat) : List Byte := 0x80 :: List.replicate (paddingLength len - 1) 0

/-- The length suffix `le_bytes((8 * L) mod 2^64, 8)` (R55). -/
def lengthSuffix (len : Nat) : List Byte := leBytes 8 (BitVec.ofNat 64 (8 * len))

/-- `padded(msg) = msg || build_padding(L) || suffix(L)` (R56). -/
def padded (msg : List Byte) : List Byte := msg ++ buildPadding msg.length ++ lengthSuffix msg.length

/-- Block n of a padded message: its bytes 64n to 64n+63 (R57). Meant for lengths that reach 64(n+1). -/
def blockAt (pm : List Byte) (n : Nat) : Block := Vector.ofFn fun i => pm.getD (64 * n + i.val) 0

/-- The padded message cut into consecutive 64-byte blocks, in order (R57). -/
def splitBlocks (pm : List Byte) : List Block := (List.range (pm.length / 64)).map (blockAt pm)

/-- `acc_N`: the accumulator after all blocks, `acc_(n+1) = compress(acc_n, words(block_n))` (R97). -/
def compressBlocks (acc : Quad) (blocks : List Block) : Quad := blocks.foldl (fun acc p => compress acc (blockWords p)) acc

/-- The four digest words of a message: `acc_N` with `acc_0` the initial value (R97). -/
def digestWords (msg : List Byte) : Quad := compressBlocks initialAcc (splitBlocks (padded msg))

/-- The digest bytes of four words: each little-endian, concatenated (R97 step 5, R98, 20_memory.md R26). -/
def digestBytes (w : Quad) : List Byte := leBytes 4 w.a ++ leBytes 4 w.b ++ leBytes 4 w.c ++ leBytes 4 w.d

/-- A byte as two lowercase hexadecimal digits, high digit first (R99). -/
def hexByte (q : Byte) : List Char := [Nat.digitChar (q.toNat / 16), Nat.digitChar (q.toNat % 16)]

/-- The digest text: the 16 digest bytes, first byte first, in lowercase hexadecimal (R99). -/
def digestText (w : Quad) : List Char := (digestBytes w).flatMap hexByte

/-- A text to hash, as its UTF-8 encoded bytes (R100). -/
def textBytes (text : String) : List Byte := text.toUTF8.toList.map UInt8.toBitVec

end Sys2Proof.Machine
end

