-- ==== Sys2Proof/Machine/Protocol.lean ====
section
/-! DEFINITION. The command level (00_scope.md R7): a command as a function of the engine state with an optional response, a
list of commands (70_reset_and_hazards.md R140), the same list as pin levels for step, and the digest protocol of the host
(46_digest_protocol.md R97). -/

namespace Sys2Proof.Machine

/-- The state of an outcome that has one, else the state before. -/
def nextOr (s : State) : Host.Outcome State Fault Refusal → State
  | .next s' => s'
  | .fault _ => s
  | .refused _ => s

/-- The ACCEPT transition of a command word (R15). -/
def State.acceptWord (s : State) (c : CmdWord) : State :=
  match decodeCommand c with
  | .instr i => nextOr s (exec i s)
  | .illegal => s.illegalTransition

/-- n STEP transitions, each of the micro-operation that t selects (R81). -/
def State.runSteps : Nat → State → State
  | 0, s => s
  | n + 1, s => State.runSteps n (nextOr s (exec (decodeSelector s.t) s))

/-- What a started RUN does by itself: 64 STEP transitions and one FEED transition (R79). Meant for the state right after an
acceptance by a ready engine, which is never in FEED; a state in FEED stays as it is (log entry 13, DESIGN CHOICE). -/
def State.finishRun (s : State) : State :=
  match s.phase with
  | .step => (s.runSteps 64).feedTransition
  | .idle => s
  | .feed => s
  | .halt => s

/-- The response that stands in the response register, if any (R19). -/
def State.response? (s : State) : Option Word := if s.rspv then some s.rsp else none

/-- A command as a function from engine state to engine state and an optional response; "RUN's function is the composition
of its acceptance, 64 STEP transitions and one FEED transition" (R7). Meant for an engine ready to accept, in IDLE or HALT; a
busy one drops the command (log entry 13, DESIGN CHOICE). -/
def State.command (s : State) (c : CmdWord) : State × Option Word :=
  ((s.acceptWord c).finishRun, (s.acceptWord c).response?)

/-- A command program: the end state and the list of responses in order (R140). Meant for a start in IDLE or HALT, where every
command is accepted (log entry 13, DESIGN CHOICE). -/
def State.commands : List CmdWord → State → State × List Word
  | [], s => (s, [])
  | c :: cs, s =>
    ((State.commands cs (s.command c).1).1, (s.command c).2.toList ++ (State.commands cs (s.command c).1).2)

/-- The pin levels of a host that gives command c and then lets a RUN finish: a RUN is followed by 65 transition times
without a command (R33, R137: the next command can be accepted 66 transitions after the RUN was). -/
def pinsOfCommand (c : CmdWord) : List HostPins :=
  HostPins.present c :: if decodeCommand c = .instr .run then List.replicate 65 HostPins.quiet else []

/-- The pin levels of a command program (log entry 9). -/
def pinsOfCommands (cs : List CmdWord) : List HostPins := cs.flatMap pinsOfCommand

/-- n transitions by step, with the responses that were visible on the pins after each, in order (R19, R140). -/
def State.observe : Nat → State → State × List Word
  | 0, s => (s, [])
  | n + 1, s =>
    let s' := nextOr s (step s)
    ((State.observe n s').1, s'.response?.toList ++ (State.observe n s').2)

/-- The commands of the digest protocol for a message (R97 steps 1 to 4). -/
def digestCommands (msg : List Byte) : List CmdWord :=
  initWord :: (splitBlocks (padded msg)).flatMap hashBlock ++ readDigest

end Sys2Proof.Machine
end

