-- ==== Sys2Proof/Safety.lean ====
section
/-! DEFINITION. What counts as a safe run: the legal states, and the states of a RUN on its course. -/

namespace Sys2Proof.Machine

/-- The relations between fields that the rules promise: `phase = HALT` if and only if `FCODE != 0` (R14), FCODE is 0, 1 or 2
(R16), a RUN in progress has a complete block (R80, R86), t is 63 in FEED (R13, R81) and 0 in IDLE (R82, R101), RSP is 0
without a response (R19), and none stands during a RUN (R19). -/
abbrev State.Legal (s : State) : Prop :=
  (s.phase = .halt ↔ s.fcode ≠ 0) ∧
  (s.fcode = 0 ∨ s.fcode = 1 ∨ s.fcode = 2) ∧
  (s.phase = .step ∨ s.phase = .feed → s.mv = 0xffff) ∧
  (s.phase = .feed → s.t = 63) ∧
  (s.phase = .idle → s.t = 0) ∧
  (s.rspv = false → s.rsp = 0) ∧
  (s.phase = .step ∨ s.phase = .feed → s.rspv = false)

/-- During a RUN the working registers are `w_t` of the compression of the accumulator and the message registers (R84, R87):
after t steps in phase STEP, after all 64 in phase FEED. -/
abbrev State.WorkOnCourse (s : State) : Prop :=
  (s.phase = .step → s.work = workAfter s.acc s.msg s.t.toNat) ∧
  (s.phase = .feed → s.work = workAfter s.acc s.msg 64)

end Sys2Proof.Machine
end

