-- ==== Sys2Proof/Certificates/Slice0/Obligations.lean ====
section
/-! DEFINITION. The statements for the provers, each from numbered rules of spec/. Every statement's docstring names its rules;
the model's own field `host` is the list of coming pin levels, and a step uses up its first entry: the model's choice, log
entry 1, in every statement whose conclusion names `host`. -/

open Sys2Proof Sys2Proof.Machine

/-! ### Encoding (30_encoding.md) -/

/-- R35, R36: a command word is decoded by the rows (c AND mask) = match, and its operands are the named slices. -/
def Obligations.CommandWordsDecodeByMatchAndMask : Prop :=
  ∀ c : CmdWord,
    (decodeCommand c = .instr .init ↔ c &&& 0xffffffffff#40 = 0x1000000000#40) ∧
    (∀ k v, decodeCommand c = .instr (.ldw k v) ↔
      c &&& 0xf000000000#40 = 0x2000000000#40 ∧ k = c.extractLsb' 32 4 ∧ v = c.extractLsb' 0 32) ∧
    (decodeCommand c = .instr .run ↔ c &&& 0xffffffffff#40 = 0x3000000000#40) ∧
    (∀ j, decodeCommand c = .instr (.rdd j) ↔
      c &&& 0xfcffffffff#40 = 0x4000000000#40 ∧ j = c.extractLsb' 32 2) ∧
    (decodeCommand c = .instr .rds ↔ c &&& 0xffffffffff#40 = 0x5000000000#40) ∧
    (decodeCommand c = .illegal ↔
      c &&& 0xffffffffff#40 ≠ 0x1000000000#40 ∧ c &&& 0xf000000000#40 ≠ 0x2000000000#40 ∧
      c &&& 0xffffffffff#40 ≠ 0x3000000000#40 ∧ c &&& 0xfcffffffff#40 ≠ 0x4000000000#40 ∧
      c &&& 0xffffffffff#40 ≠ 0x5000000000#40)

/-- R34 to R37, R39: decoding the code of an instruction gives it back, for every instruction and every operand. -/
def Obligations.EveryInstructionDecodesFromItsCode : Prop :=
  ∀ i : Instr, decode (encode i) = .instr i

/-- R35, R39: a code that decodes to an instruction is that instruction's code, so each code has one meaning. -/
def Obligations.EveryLegalCodeIsItsInstructionsCode : Prop :=
  ∀ (code : Code) (i : Instr), decode code = .instr i → encode i = code

/-- R39: t = 16 * r + i, the field r selects the micro-operation, and every value of t is a valid entry. -/
def Obligations.StepCounterSelectsTheRound : Prop :=
  (∀ i : BitVec 4,
    decodeSelector (0b00#2 ++ i) = .stepF i ∧ decodeSelector (0b01#2 ++ i) = .stepG i ∧
    decodeSelector (0b10#2 ++ i) = .stepH i ∧ decodeSelector (0b11#2 ++ i) = .stepI i) ∧
  ∀ t : StepIndex, t.toNat = 16 * (roundNumber t).toNat + (localStep t).toNat ∧ t = roundNumber t ++ localStep t

/-- Words written out from the spec's encodings (R35, R37, R41; 95_test_vectors.md section 2.7) decode to what they stand
for, and their nearest refused neighbours to ILLEGAL. -/
def Obligations.SpecWordsDecode : Prop :=
  decodeCommand 0x1000000000#40 = .instr .init ∧
  decodeCommand 0x2080636261#40 = .instr (.ldw 0 0x80636261) ∧
  decodeCommand 0x2e00000018#40 = .instr (.ldw 14 0x18) ∧
  decodeCommand 0x3000000000#40 = .instr .run ∧
  decodeCommand 0x4300000000#40 = .instr (.rdd 3) ∧
  decodeCommand 0x5000000000#40 = .instr .rds ∧
  decodeSelector 0b000101#6 = .stepF 5 ∧ decodeSelector 0b010000#6 = .stepG 0 ∧
  decodeSelector 0b101111#6 = .stepH 15 ∧ decodeSelector 0b111111#6 = .stepI 15 ∧
  decodeCommand 0x0000000000#40 = .illegal ∧ decodeCommand 0xffffffffff#40 = .illegal ∧
  decodeCommand 0x1000000001#40 = .illegal ∧ decodeCommand 0x3100000000#40 = .illegal ∧
  decodeCommand 0x4400000000#40 = .illegal ∧ decodeCommand 0x4000000001#40 = .illegal ∧
  decodeCommand 0x5800000000#40 = .illegal ∧ decodeCommand 0x6000000000#40 = .illegal

/-- R41: the assembler writes the word of each command, decoding gives the command back, and a line whose operand has no
encoding is refused. -/
def Obligations.AssemblerWritesTheCommandWords : Prop :=
  (∀ k v : Nat, k ≤ 15 → v ≤ 0xffffffff →
    ∃ w : CmdWord, assembleLine (.ldw k v) = some [w] ∧ w.toNat = 0x2000000000 + k * 2 ^ 32 + v ∧
      decodeCommand w = .instr (.ldw (BitVec.ofNat 4 k) (BitVec.ofNat 32 v))) ∧
  (∀ k v : Nat, k > 15 ∨ v > 0xffffffff → assembleLine (.ldw k v) = none) ∧
  (∀ j : Nat, j ≤ 3 →
    ∃ w : CmdWord, assembleLine (.rdd j) = some [w] ∧ w.toNat = 0x4000000000 + j * 2 ^ 32 ∧
      decodeCommand w = .instr (.rdd (BitVec.ofNat 2 j))) ∧
  (∀ j : Nat, j > 3 → assembleLine (.rdd j) = none) ∧
  (∀ w : Nat, w ≤ 0xffffffffff → assembleLine (.word w) = some [BitVec.ofNat 40 w]) ∧
  (∀ w : Nat, w > 0xffffffffff → assembleLine (.word w) = none) ∧
  assembleLine .init = some [0x1000000000#40] ∧ assembleLine .run = some [0x3000000000#40] ∧
  assembleLine .rds = some [0x5000000000#40]

/-- R42: LDBLK is the sixteen LDW of the block's words in order, HASHBLK is LDBLK then RUN, RDDIG is RDD 0 to RDD 3. -/
def Obligations.PseudoInstructionsExpand : Prop :=
  (∀ p : Block,
    assembleLine (.ldblk p.toList) = some ((List.finRange 16).map fun k =>
      BitVec.ofNat 40 (0x2000000000 + k.val * 2 ^ 32 +
        (leWord p[4 * k.val] p[4 * k.val + 1] p[4 * k.val + 2] p[4 * k.val + 3]).toNat)) ∧
    assembleLine (.hashblk p.toList) = (assembleLine (.ldblk p.toList)).map (· ++ [0x3000000000#40])) ∧
  assembleLine .rddig = some [0x4000000000#40, 0x4100000000#40, 0x4200000000#40, 0x4300000000#40]

/-! ### Transitions (10_state.md, 44_block_compression.md, 60_exceptions.md, 70_reset_and_hazards.md) -/

/-- R33, R81: a presented command that decodes to i runs as exec i in IDLE and HALT; in STEP the micro-operation that t
selects runs as exec of it, whatever the command pins show. Around exec a step only uses up one entry of `host`. -/
def Obligations.StepRunsTheDecodedInstruction : Prop :=
  (∀ (s : State) (p : HostPins) (rest : List HostPins) (i : Instr),
    s.host = p :: rest → (s.phase = .idle ∨ s.phase = .halt) → p.rst = false → p.cmdValid = true →
    decodeCommand p.cmd = .instr i → step s = exec i { s with host := rest }) ∧
  (∀ (s : State) (i : Instr),
    s.phase = .step → s.pins.rst = false → decodeSelector s.t = i →
    step s = exec i { s with host := s.host.tail })

/-- R21, R115: RESET, whatever else is presented and whatever the phase, writes every register and shows on the pins. -/
def Obligations.ResetWritesEveryRegister : Prop :=
  ∀ s : State, s.pins.rst = true →
    ∃ s' : State, step s = .next s' ∧
      s' = { acc := ⟨0x67452301, 0xefcdab89, 0x98badcfe, 0x10325476⟩, work := ⟨0, 0, 0, 0⟩,
             msg := Vector.replicate 16 0, mv := 0, t := 0, phase := .idle, fcode := 0, rspv := false, rsp := 0,
             host := s.host.tail } ∧
      s'.status = 0 ∧ s'.cmdReady = true ∧ s'.busy = false ∧ s'.faultPin = false ∧ s'.rspValidPin = false ∧
      s'.rspPin = 0

/-- The state a run starts from: the registers at the values of R21, R130, and (the model's choice, log entry 1) a host that
presents nothing. -/
def Obligations.ResetStateHoldsTheSpecsValues : Prop :=
  State.reset =
    { acc := ⟨0x67452301, 0xefcdab89, 0x98badcfe, 0x10325476⟩, work := ⟨0, 0, 0, 0⟩, msg := Vector.replicate 16 0,
      mv := 0, t := 0, phase := .idle, fcode := 0, rspv := false, rsp := 0, host := [] }

/-- R94, and the ILLEGAL row of R93: an ILLEGAL word accepted in IDLE takes Fault(1); in HALT it is discarded. -/
def Obligations.IllegalWordFaults : Prop :=
  ∀ (s : State) (p : HostPins) (rest : List HostPins),
    s.host = p :: rest → p.rst = false → p.cmdValid = true → decodeCommand p.cmd = .illegal →
    (s.phase = .idle →
      step s = .next { s with fcode := 1, phase := .halt, rspv := false, rsp := 0, host := rest }) ∧
    (s.phase = .halt → step s = .next { s with rspv := false, rsp := 0, host := rest })

/-- R82: the FEED transition adds the working registers into the accumulator and frees the buffer. -/
def Obligations.FeedAddsElementwise : Prop :=
  ∀ s : State, s.phase = .feed → s.pins.rst = false →
    step s = .next { s with
      acc := ⟨s.acc.a + s.work.a, s.acc.b + s.work.b, s.acc.c + s.work.c, s.acc.d + s.work.d⟩
      mv := 0
      t := 0
      phase := .idle
      rspv := false
      rsp := 0
      host := s.host.tail }

/-- The WAIT row of R15: with no command presented, IDLE and HALT only clear the response register. -/
def Obligations.WaitOnlyClearsTheResponse : Prop :=
  ∀ s : State, (s.phase = .idle ∨ s.phase = .halt) → s.pins.rst = false → s.pins.cmdValid = false →
    step s = .next { s with rspv := false, rsp := 0, host := s.host.tail }

/-! ### Commands (45_commands.md, 44_block_compression.md section 1) -/

/-- R89: INIT, its encoding and its effect in IDLE. -/
def Obligations.InitLoadsTheInitialValues : Prop :=
  (∀ c : CmdWord, decodeCommand c = .instr .init ↔ c = 0x1000000000#40) ∧
  ∀ s : State, s.phase = .idle →
    exec .init s = .next { s with
      acc := ⟨0x67452301, 0xefcdab89, 0x98badcfe, 0x10325476⟩
      rspv := false
      rsp := 0 }

/-- R90: LDW k, v, its encoding and its effect in IDLE: M[k] and bit k of MV, and no other. -/
def Obligations.LdwLoadsOneWord : Prop :=
  (∀ (c : CmdWord) (k : BitVec 4) (v : Word),
    decodeCommand c = .instr (.ldw k v) ↔ c.toNat = 0x2000000000 + k.toNat * 2 ^ 32 + v.toNat) ∧
  ∀ (s : State) (k : BitVec 4) (v : Word), s.phase = .idle →
    ∃ s' : State, exec (.ldw k v) s = .next s' ∧
      s' = { s with msg := s'.msg, mv := s'.mv, rspv := false, rsp := 0 } ∧
      ∀ (n : Nat) (h : n < 16),
        s'.msg[n] = (if n = k.toNat then v else s.msg[n]) ∧
        s'.mv.getLsbD n = (if n = k.toNat then true else s.mv.getLsbD n)

/-- R79 (the acceptance), R80, R88: RUN on a complete block starts the steps from a copy of the accumulator; on an
incomplete one it takes Fault(2) and changes nothing else. -/
def Obligations.RunStartsOrFaults : Prop :=
  (∀ c : CmdWord, decodeCommand c = .instr .run ↔ c = 0x3000000000#40) ∧
  ∀ s : State, s.phase = .idle →
    (s.mv = 0xffff →
      exec .run s = .next { s with work := s.acc, t := 0, phase := .step, rspv := false, rsp := 0 }) ∧
    (s.mv ≠ 0xffff →
      exec .run s = .next { s with fcode := 2, phase := .halt, rspv := false, rsp := 0 })

/-- R91: RDD j, its encoding and its response in IDLE; nothing else changes. -/
def Obligations.RddRespondsAnAccumulatorWord : Prop :=
  (∀ (c : CmdWord) (j : BitVec 2),
    decodeCommand c = .instr (.rdd j) ↔ c.toNat = 0x4000000000 + j.toNat * 2 ^ 32) ∧
  ∀ s : State, s.phase = .idle →
    exec (.rdd 0) s = .next { s with rspv := true, rsp := s.acc.a } ∧
    exec (.rdd 1) s = .next { s with rspv := true, rsp := s.acc.b } ∧
    exec (.rdd 2) s = .next { s with rspv := true, rsp := s.acc.c } ∧
    exec (.rdd 3) s = .next { s with rspv := true, rsp := s.acc.d }

/-- R92, R17: RDS, its encoding and its response in IDLE: MV in bits 15:0, FCODE in bits 19:16, zero above, and just MV in a
legal state; nothing else changes. -/
def Obligations.RdsRespondsStatus : Prop :=
  (∀ c : CmdWord, decodeCommand c = .instr .rds ↔ c = 0x5000000000#40) ∧
  ∀ s : State, s.phase = .idle →
    ∃ r : Word, exec .rds s = .next { s with rspv := true, rsp := r } ∧
      r.extractLsb' 0 16 = s.mv ∧ r.extractLsb' 16 4 = s.fcode ∧ r.extractLsb' 20 12 = 0#12 ∧
      (s.Legal → r.toNat = s.mv.toNat)

/-- R93: in HALT commands are accepted; INIT, LDW and RUN change only the response register, RDD and RDS answer, and no
transition but RESET leaves HALT. -/
def Obligations.HaltDiscardsStateChangingCommands : Prop :=
  ∀ s : State, s.phase = .halt →
    s.cmdReady = true ∧
    exec .init s = .next { s with rspv := false, rsp := 0 } ∧
    (∀ k v, exec (.ldw k v) s = .next { s with rspv := false, rsp := 0 }) ∧
    exec .run s = .next { s with rspv := false, rsp := 0 } ∧
    exec (.rdd 0) s = .next { s with rspv := true, rsp := s.acc.a } ∧
    exec (.rdd 1) s = .next { s with rspv := true, rsp := s.acc.b } ∧
    exec (.rdd 2) s = .next { s with rspv := true, rsp := s.acc.c } ∧
    exec (.rdd 3) s = .next { s with rspv := true, rsp := s.acc.d } ∧
    exec .rds s = .next { s with rspv := true, rsp := 0#12 ++ s.fcode ++ s.mv } ∧
    (s.pins.cmdValid = true → decodeCommand s.pins.cmd = .illegal → s.pins.rst = false →
      step s = .next { s with rspv := false, rsp := 0, host := s.host.tail }) ∧
    ∀ s' : State, s.pins.rst = false → step s = .next s' → s'.phase = .halt ∧ s'.fcode = s.fcode

/-- R33: while cmd_ready = 0 a presented command has no effect and is not remembered: the step is the same whatever the
command pins show. -/
def Obligations.BusyEngineIgnoresTheCommandPins : Prop :=
  ∀ (s : State) (p q : HostPins) (rest : List HostPins),
    s.cmdReady = false → p.rst = q.rst →
    step { s with host := p :: rest } = step { s with host := q :: rest }

/-! ### Micro-operations (43_step.md section 5, 44_block_compression.md R81) -/

/-- R74 with the sequencing of R81: STEP.F at local step i. -/
def Obligations.StepFComputesRoundOne : Prop :=
  ∀ (s : State) (i : BitVec 4), s.phase = .step → s.t = 0b00#2 ++ i →
    exec (.stepF i) s = .next { s with
      work := ⟨s.work.d,
        (s.work.a + ((s.work.b &&& s.work.c) ||| (~~~s.work.b &&& s.work.d)) + s.msg[i.toNat]
          + roundConstant s.t).rotateLeft (#v[7, 12, 17, 22][i.toNat % 4]) + s.work.b,
        s.work.b, s.work.c⟩
      t := s.t + 1
      rspv := false
      rsp := 0 }

/-- R75 with the sequencing of R81: STEP.G at local step i. -/
def Obligations.StepGComputesRoundTwo : Prop :=
  ∀ (s : State) (i : BitVec 4), s.phase = .step → s.t = 0b01#2 ++ i →
    exec (.stepG i) s = .next { s with
      work := ⟨s.work.d,
        (s.work.a + ((s.work.b &&& s.work.d) ||| (s.work.c &&& ~~~s.work.d)) + s.msg[(5 * i.toNat + 1) % 16]
          + roundConstant s.t).rotateLeft (#v[5, 9, 14, 20][i.toNat % 4]) + s.work.b,
        s.work.b, s.work.c⟩
      t := s.t + 1
      rspv := false
      rsp := 0 }

/-- R76 with the sequencing of R81: STEP.H at local step i. -/
def Obligations.StepHComputesRoundThree : Prop :=
  ∀ (s : State) (i : BitVec 4), s.phase = .step → s.t = 0b10#2 ++ i →
    exec (.stepH i) s = .next { s with
      work := ⟨s.work.d,
        (s.work.a + (s.work.b ^^^ s.work.c ^^^ s.work.d) + s.msg[(3 * i.toNat + 5) % 16]
          + roundConstant s.t).rotateLeft (#v[4, 11, 16, 23][i.toNat % 4]) + s.work.b,
        s.work.b, s.work.c⟩
      t := s.t + 1
      rspv := false
      rsp := 0 }

/-- R77 with the sequencing of R81: STEP.I at local step i; after the last step, t = 63, FEED follows and t stays. -/
def Obligations.StepIComputesRoundFour : Prop :=
  ∀ (s : State) (i : BitVec 4), s.phase = .step → s.t = 0b11#2 ++ i →
    exec (.stepI i) s = .next { s with
      work := ⟨s.work.d,
        (s.work.a + (s.work.c ^^^ (s.work.b ||| ~~~s.work.d)) + s.msg[(7 * i.toNat) % 16]
          + roundConstant s.t).rotateLeft (#v[6, 10, 15, 21][i.toNat % 4]) + s.work.b,
        s.work.b, s.work.c⟩
      t := if i = 15 then 63 else s.t + 1
      phase := if i = 15 then .feed else .step
      rspv := false
      rsp := 0 }

/-! ### Frames -/

/-- What INIT leaves unchanged, in every state: all but the accumulator and the response register (R89), and the accumulator
too unless the phase is IDLE: in HALT by R93, in STEP and FEED by R33 as the model reads it (log entry 3). There is no memory
(R23). -/
def Obligations.InitFrame : Prop :=
  ∀ s s' : State, exec .init s = .next s' →
    s'.work = s.work ∧ s'.msg = s.msg ∧ s'.mv = s.mv ∧ s'.t = s.t ∧ s'.phase = s.phase ∧ s'.fcode = s.fcode ∧
    s'.host = s.host ∧ (s.phase ≠ .idle → s'.acc = s.acc)

/-- What LDW leaves unchanged, in every state: every register but M[k], bit k of MV and the response register (R90), and those
of M and MV too unless the phase is IDLE: in HALT by R93, in STEP and FEED by R33 as the model reads it (log entry 3). -/
def Obligations.LdwFrame : Prop :=
  ∀ (s s' : State) (k : BitVec 4) (v : Word), exec (.ldw k v) s = .next s' →
    s'.acc = s.acc ∧ s'.work = s.work ∧ s'.t = s.t ∧ s'.phase = s.phase ∧ s'.fcode = s.fcode ∧ s'.host = s.host ∧
    (∀ (n : Nat) (h : n < 16), n ≠ k.toNat → s'.msg[n] = s.msg[n] ∧ s'.mv.getLsbD n = s.mv.getLsbD n) ∧
    (s.phase ≠ .idle → s'.msg = s.msg ∧ s'.mv = s.mv)

/-- What RUN leaves unchanged, in every state: the accumulator, M and MV always; the working registers and t where it faults;
FCODE where it starts (R79, R80); all of them outside IDLE: in HALT by R93, in STEP and FEED by R33 as the model reads it (log
entry 3). -/
def Obligations.RunFrame : Prop :=
  ∀ s s' : State, exec .run s = .next s' →
    s'.acc = s.acc ∧ s'.msg = s.msg ∧ s'.mv = s.mv ∧ s'.host = s.host ∧
    (s.mv ≠ 0xffff → s'.work = s.work ∧ s'.t = s.t) ∧ (s.mv = 0xffff → s'.fcode = s.fcode) ∧
    (s.phase ≠ .idle → s'.work = s.work ∧ s'.t = s.t ∧ s'.phase = s.phase ∧ s'.fcode = s.fcode)

/-- What RDD and RDS leave unchanged, in every state: everything but the response register, in IDLE and HALT by R91, R92 and
R93, in STEP and FEED by R33 as the model reads it (log entry 3). -/
def Obligations.ReadsFrame : Prop :=
  ∀ s s' : State, (exec .rds s = .next s' ∨ ∃ j, exec (.rdd j) s = .next s') →
    s' = { s with rspv := s'.rspv, rsp := s'.rsp }

/-- What the four micro-operations leave unchanged, in every state (R81, R86, R87): the accumulator, M, MV and FCODE; and
everything when the phase is not STEP or t does not select that micro-operation at that local step (R15, R39; the model's
reading, log entry 3). -/
def Obligations.MicroOperationFrame : Prop :=
  (∀ (s s' : State) (i : BitVec 4),
    (exec (.stepF i) s = .next s' ∨ exec (.stepG i) s = .next s' ∨ exec (.stepH i) s = .next s' ∨
      exec (.stepI i) s = .next s') →
    s'.acc = s.acc ∧ s'.msg = s.msg ∧ s'.mv = s.mv ∧ s'.fcode = s.fcode ∧ s'.host = s.host) ∧
  ∀ (s s' : State) (i : BitVec 4),
    (¬(s.phase = .step ∧ s.t = 0b00#2 ++ i) → exec (.stepF i) s = .next s' → s' = s) ∧
    (¬(s.phase = .step ∧ s.t = 0b01#2 ++ i) → exec (.stepG i) s = .next s' → s' = s) ∧
    (¬(s.phase = .step ∧ s.t = 0b10#2 ++ i) → exec (.stepH i) s = .next s' → s' = s) ∧
    (¬(s.phase = .step ∧ s.t = 0b11#2 ++ i) → exec (.stepI i) s = .next s' → s' = s)

/-! ### Datapath (40_primitives.md, 42_round_functions.md, 43_step.md) -/

/-- R60 to R63: each nonlinear function at bit position p depends on the three bits there as its truth table says. -/
def Obligations.NonlinearFunctionsActBitwise : Prop :=
  ∀ (x y z : Word) (p : Nat), p < 32 →
    (fnF x y z).getLsbD p = (if x.getLsbD p then y.getLsbD p else z.getLsbD p) ∧
    (fnG x y z).getLsbD p = (if z.getLsbD p then x.getLsbD p else y.getLsbD p) ∧
    (fnH x y z).getLsbD p = (x.getLsbD p ^^ (y.getLsbD p ^^ z.getLsbD p)) ∧
    (fnI x y z).getLsbD p = (y.getLsbD p ^^ (x.getLsbD p || !z.getLsbD p))

/-- R45: for 1 <= n <= 31, bit p of x becomes bit (p + n) mod 32 of rotl32(x, n). -/
def Obligations.RotatorMovesEveryBit : Prop :=
  ∀ (x : Word) (n p : Nat), 1 ≤ n → n ≤ 31 → p < 32 → (rotl32 x n).getLsbD ((p + n) % 32) = x.getLsbD p

/-- R46: the rotation round trip, for 1 <= n <= 31. -/
def Obligations.RotationRoundTrip : Prop :=
  ∀ (x : Word) (n : Nat), 1 ≤ n → n ≤ 31 → rotl32 (rotl32 x n) (32 - n) = x

/-- R47: the adders are modulo 2^32 on the sum of unbounded integers, and any nesting of add32 gives sum32. -/
def Obligations.AddersDropTheCarry : Prop :=
  (∀ x y : Word, (add32 x y).toNat = (x.toNat + y.toNat) % 2 ^ 32 ∧ add32 x y = add32 y x) ∧
  (∀ x y z : Word, add32 (add32 x y) z = add32 x (add32 y z)) ∧
  (∀ xs : List Word, (sum32 xs).toNat = (xs.map BitVec.toNat).sum % 2 ^ 32 ∧ sum32 xs = xs.foldr add32 0)

/-- R49, R50: le_bytes and le_word, and that on four bytes they are inverse to each other. -/
def Obligations.WordsAndBytesAreInverse : Prop :=
  (∀ (n : Nat) (x : BitVec (8 * n)),
    (leBytes n x).length = n ∧ ∀ m, m < n → ((leBytes n x).getD m 0).toNat = x.toNat / 2 ^ (8 * m) % 256) ∧
  (∀ q0 q1 q2 q3 : Byte,
    (leWord q0 q1 q2 q3).toNat = q0.toNat + 2 ^ 8 * q1.toNat + 2 ^ 16 * q2.toNat + 2 ^ 24 * q3.toNat ∧
    leBytes 4 (leWord q0 q1 q2 q3) = [q0, q1, q2, q3] ∧
    ∀ rest, decodeWordsLe (q0 :: q1 :: q2 :: q3 :: rest) = (decodeWordsLe rest).map (leWord q0 q1 q2 q3 :: ·)) ∧
  ∀ x : Word, decodeWordsLe (leBytes 4 x) = some [x]

/-- R67: the message index of each round is the stated formula, and each round uses every message word exactly once. -/
def Obligations.SchedulerPermutesTheWords : Prop :=
  (∀ i : BitVec 4,
    msgIndex .F i = i ∧ (msgIndex .G i).toNat = (5 * i.toNat + 1) % 16 ∧
    (msgIndex .H i).toNat = (3 * i.toNat + 5) % 16 ∧ (msgIndex .I i).toNat = 7 * i.toNat % 16) ∧
  ∀ (fn : RoundFn) (k : BitVec 4), ∃! i : BitVec 4, msgIndex fn i = k

/-- R68: the rotation amounts repeat four values per round; and each lies in 4..23, inside the rotator's domain (R69, whose
values the spec decides in D21, from general knowledge). -/
def Obligations.RotationAmountsRepeatPerRound : Prop :=
  ∀ (r : BitVec 2) (i : BitVec 4),
    rotAmount (r ++ i) = rotAmount (r ++ (i &&& 3)) ∧ 4 ≤ rotAmount (r ++ i) ∧ rotAmount (r ++ i) ≤ 23

/-- R70, R71: the round constant of step t is `T[t + 1] = floor(2^32 * |sin(t + 1)|)`, the angle in radians (D22, G2: the
spec's decision, from general knowledge). -/
def Obligations.RoundConstantsAreSines : Prop :=
  ∀ t : StepIndex, ((roundConstant t).toNat : Int) = ⌊(2 : ℝ) ^ 32 * |Real.sin ((t.toNat : ℝ) + 1)|⌋

/-! ### The host's message preparation (41_padding.md, 46_digest_protocol.md) -/

/-- R53, R59: padding_length is in 1..64 and makes the total length a multiple of 64. -/
def Obligations.PaddingLengthIsInRange : Prop :=
  ∀ len : Nat, paddingLength len = 64 - (len + 8) % 64 ∧ (len + paddingLength len + 8) % 64 = 0 ∧
    1 ≤ paddingLength len ∧ paddingLength len ≤ 64

/-- R54, R55, R56: the padded message begins with the message, goes on with the byte 0x80 and zeros, is a positive multiple
of 64 long, and its last 8 bytes hold the bit length modulo 2^64, least significant byte first. -/
def Obligations.PaddedMessageIsWholeBlocks : Prop :=
  ∀ msg : List Byte,
    (padded msg).length = 64 * ((msg.length + 8) / 64 + 1) ∧
    (∃ zeros : Nat, padded msg = msg ++ (0x80#8 :: List.replicate zeros 0#8) ++ (padded msg).drop ((padded msg).length - 8)) ∧
    ((padded msg).drop ((padded msg).length - 8)).foldr (fun q n => q.toNat + 256 * n) 0 = 8 * msg.length % 2 ^ 64

/-- R57: cutting the padded message into blocks of 64 bytes loses nothing. -/
def Obligations.SplittingLosesNothing : Prop :=
  ∀ msg : List Byte,
    ((splitBlocks (padded msg)).map Vector.toList).flatten = padded msg ∧
    (splitBlocks (padded msg)).length = (msg.length + 8) / 64 + 1

/-- R98, R99: the digest has 16 bytes, digest byte 4j + n is byte n of word j (R26), and its text has 32 characters: for each
byte, first byte first, its high and then its low digit, as a lowercase hexadecimal digit (the digit order is R99's own
inference, from R103). -/
def Obligations.DigestTextIsLowercaseHex : Prop :=
  ∀ w : Quad,
    (digestBytes w).length = 16 ∧
    (∀ j n : Nat, j < 4 → n < 4 →
      (digestBytes w).getD (4 * j + n) 0 = ([w.a, w.b, w.c, w.d].getD j 0).extractLsb' (8 * n) 8) ∧
    (digestText w).length = 32 ∧ (∀ ch ∈ digestText w, ch ∈ "0123456789abcdef".toList) ∧
    ∀ m : Nat, m < 16 →
      (digestText w)[2 * m]? = "0123456789abcdef".toList[((digestBytes w).getD m 0).toNat / 16]? ∧
      (digestText w)[2 * m + 1]? = "0123456789abcdef".toList[((digestBytes w).getD m 0).toNat % 16]?

/-! ### The whole machine -/

/-- R14, R20: the output pins as functions of the state. -/
def Obligations.OutputPinsShowThePhase : Prop :=
  ∀ s : State,
    (s.busy = true ↔ s.phase = .step ∨ s.phase = .feed) ∧ s.cmdReady = !s.busy ∧
    (s.faultPin = true ↔ s.fcode ≠ 0) ∧ s.rspValidPin = s.rspv ∧ s.rspPin = s.rsp

/-- The invariant of LegalStatesStayLegal holds at reset (R21). -/
def Obligations.ResetIsLegal : Prop := State.reset.Legal

/-- R13, R14, R16, R19, R86: from every legal state, every transition leads to a legal state: HALT exactly when a fault is
recorded, FCODE 0, 1 or 2, a complete block during a RUN, t where the phase wants it, no stale response. -/
def Obligations.LegalStatesStayLegal : Prop :=
  ∀ s s' : State, s.Legal → step s = .next s' → s'.Legal

/-- R84, R86, R87: from every state in which they are, every transition leaves the working registers at `w_t` of the
compression of the accumulator and the message words, during a RUN. -/
def Obligations.WorkingRegistersStayOnCourse : Prop :=
  ∀ s s' : State, s.WorkOnCourse → step s = .next s' → s'.WorkOnCourse

/-- R15, R110: a transition is defined in every state: no step ends in a fault or a refusal of the model. -/
def Obligations.EveryStateHasATransition : Prop :=
  ∀ s : State, ∃ s' : State, step s = .next s'

/-- R9, R87: the accumulator is written only by RESET and INIT, with the initial values, and by FEED. -/
def Obligations.OnlyResetInitAndFeedWriteTheAccumulator : Prop :=
  ∀ s s' : State, step s = .next s' →
    s'.acc = s.acc ∨
    ((s.select = .reset ∨ (s.select = .instr .init ∧ s.phase = .idle)) ∧
      s'.acc = ⟨0x67452301, 0xefcdab89, 0x98badcfe, 0x10325476⟩) ∨
    (s.select = .feed ∧
      s'.acc = ⟨s.acc.a + s.work.a, s.acc.b + s.work.b, s.acc.c + s.work.c, s.acc.d + s.work.d⟩)

/-- R11, R12: a message word changes only by RESET and by an LDW accepted in IDLE that names it; a bit of MV is set only by
that LDW and cleared only by FEED and RESET. -/
def Obligations.OnlyLdwFeedAndResetWriteTheBuffer : Prop :=
  ∀ (s s' : State) (n : Nat) (h : n < 16), step s = .next s' →
    (s'.msg[n] = s.msg[n] ∨ s.select = .reset ∨
      ∃ k v, s.select = .instr (.ldw k v) ∧ s.phase = .idle ∧ k.toNat = n ∧ s'.msg[n] = v) ∧
    (s.mv.getLsbD n = false → s'.mv.getLsbD n = true →
      ∃ k v, s.select = .instr (.ldw k v) ∧ s.phase = .idle ∧ k.toNat = n) ∧
    (s.mv.getLsbD n = true → s'.mv.getLsbD n = false → s.select = .feed ∨ s.select = .reset)

/-- R16, R117, R121: FCODE changes only by RESET and by a fault taken at the acceptance of a command in IDLE: code 1 for a
word that decodes to ILLEGAL, code 2 for RUN with MV not 0xFFFF. -/
def Obligations.OnlyResetAndAcceptanceInIdleWriteFcode : Prop :=
  ∀ s s' : State, step s = .next s' →
    s'.fcode = s.fcode ∨ (s.select = .reset ∧ s'.fcode = 0) ∨
    (s.phase = .idle ∧ s'.phase = .halt ∧
      ((s.select = .illegal ∧ s'.fcode = 1) ∨ (s.select = .instr .run ∧ s.mv ≠ 0xffff ∧ s'.fcode = 2)))

/-- R119, R120, R121: without reset, a transition in HALT changes nothing but the response register, so nothing but reset
leaves HALT and FCODE keeps the first fault. -/
def Obligations.OnlyResetLeavesHalt : Prop :=
  ∀ s s' : State, s.phase = .halt → s.pins.rst = false → step s = .next s' →
    s' = { s with rspv := s'.rspv, rsp := s'.rsp, host := s.host.tail }

/-- R19: after a transition RSPV is 1, with the value read, exactly if it was an RDD or RDS, else RSPV and RSP are 0. -/
def Obligations.ResponseStandsForOneTransition : Prop :=
  ∀ s s' : State, step s = .next s' →
    match s.select with
    | .instr (.rdd j) => s'.rspv = true ∧ s'.rsp = [s.acc.a, s.acc.b, s.acc.c, s.acc.d].getD j.toNat 0
    | .instr .rds => s'.rspv = true ∧ s'.rsp = 0#12 ++ s.fcode ++ s.mv
    | _ => s'.rspv = false ∧ s'.rsp = 0

/-- R84, R79, R139: a RUN accepted in IDLE with MV = 0xFFFF leaves, after its acceptance, 64 STEP and one FEED transitions
without reset, the accumulator at `compress(acc, m)`, the working registers at `w_64`, MV = 0, t = 0, phase IDLE, and
nothing else changed, whatever the command pins showed during the 65 busy transitions; and until then `busy` is 1. -/
def Obligations.RunCompressesTheBlock : Prop :=
  ∀ s : State,
    s.phase = .idle → s.mv = 0xffff → s.pins.cmdValid = true → decodeCommand s.pins.cmd = .instr .run →
    (∀ n < 66, (s.host.getD n HostPins.quiet).rst = false) →
    Host.Core.run Sys2Proof.core 66 s = .next { s with
      acc := compress s.acc s.msg
      work := workAfter s.acc s.msg 64
      mv := 0
      t := 0
      rspv := false
      rsp := 0
      host := s.host.drop 66 } ∧
    ∀ n, 1 ≤ n → n ≤ 65 → ∃ s' : State, Host.Core.run Sys2Proof.core n s = .next s' ∧ s'.busy = true

/-- R7: the two levels of description agree: a list of commands given on the pins to an engine that is ready, each RUN
followed by the 65 transition times it needs, gives by single transitions the end state and the responses that the command
level gives (the pin schedule is the model's, log entry 9). -/
def Obligations.CommandLevelAgreesWithTransitions : Prop :=
  ∀ (cs : List CmdWord) (rest : List HostPins) (s : State),
    (s.phase = .idle ∨ s.phase = .halt) → s.host = pinsOfCommands cs ++ rest →
    State.observe (pinsOfCommands cs).length s = State.commands cs { s with host := rest }

/-- R97, R101, R102: from every state in phase IDLE, whatever it holds, the commands of the digest protocol for a message
cause no fault and return the four words `acc_N`, with `acc_0` the initial value and `acc_(n+1) = compress(acc_n,
words(block_n))`; they are 1 + 17 N + 4 commands for N blocks. -/
def Obligations.DigestProtocolReturnsTheDigestWords : Prop :=
  ∀ (msg : List Byte) (s : State), s.phase = .idle →
    (State.commands (digestCommands msg) s).2 =
      [(digestWords msg).a, (digestWords msg).b, (digestWords msg).c, (digestWords msg).d] ∧
    (State.commands (digestCommands msg) s).1.phase = .idle ∧
    (State.commands (digestCommands msg) s).1.fcode = s.fcode ∧
    (digestCommands msg).length = 1 + 17 * ((msg.length + 8) / 64 + 1) + 4
end

