-- ==== Sys2Proof/Laws/Decode.lean ====
section
/-! SUPPORT. The small lemmas of the decoder and encoder: the fields of a command word put together from fields, the two
halves of a step selector, and that every selector is put together from its halves. -/

namespace Sys2Proof

@[simp] theorem cmdOp_cmdWord (op idx : BitVec 4) (data : Word) : cmdOp (cmdWord op idx data) = op := by
  apply BitVec.eq_of_getLsbD_eq
  intro n hn
  simp only [cmdOp, cmdWord, BitVec.getLsbD_extractLsb', BitVec.getLsbD_append, hn, decide_true, Bool.true_and]
  rw [if_neg (by omega), if_neg (by omega)]
  congr 1
  omega

@[simp] theorem cmdIdx_cmdWord (op idx : BitVec 4) (data : Word) : cmdIdx (cmdWord op idx data) = idx := by
  apply BitVec.eq_of_getLsbD_eq
  intro n hn
  simp only [cmdIdx, cmdWord, BitVec.getLsbD_extractLsb', BitVec.getLsbD_append, hn, decide_true, Bool.true_and]
  rw [if_neg (by omega), if_pos (by omega)]
  congr 1
  omega

@[simp] theorem cmdData_cmdWord (op idx : BitVec 4) (data : Word) : cmdData (cmdWord op idx data) = data := by
  apply BitVec.eq_of_getLsbD_eq
  intro n hn
  simp only [cmdData, cmdWord, BitVec.getLsbD_extractLsb', BitVec.getLsbD_append, hn, decide_true, Bool.true_and]
  rw [if_pos (by omega)]
  congr 1
  omega

/-- A command word is its three fields (R34). -/
theorem cmdWord_fields (c : CmdWord) : cmdWord (cmdOp c) (cmdIdx c) (cmdData c) = c := by
  apply BitVec.eq_of_getLsbD_eq
  intro n hn
  simp only [cmdWord, cmdOp, cmdIdx, cmdData, BitVec.getLsbD_append, BitVec.getLsbD_extractLsb']
  split_ifs with h1 h2
  · simp [h1]
  · rw [decide_eq_true h2, Bool.true_and]
    congr 1
    omega
  · rw [decide_eq_true (show n - 32 - 4 < 4 by omega), Bool.true_and]
    congr 1
    omega

/-- Command words are equal when their three fields are (R34). -/
theorem cmdWord_inj (op idx op' idx' : BitVec 4) (data data' : Word) :
    cmdWord op idx data = cmdWord op' idx' data' ↔ op = op' ∧ idx = idx' ∧ data = data' := by
  constructor
  · intro h
    have h1 := congrArg cmdOp h
    have h2 := congrArg cmdIdx h
    have h3 := congrArg cmdData h
    simp only [cmdOp_cmdWord, cmdIdx_cmdWord, cmdData_cmdWord] at h1 h2 h3
    exact ⟨h1, h2, h3⟩
  · rintro ⟨rfl, rfl, rfl⟩
    rfl

/-- Masking a command word masks each field (R35). -/
theorem cmdWord_and (op idx op' idx' : BitVec 4) (data data' : Word) :
    cmdWord op idx data &&& cmdWord op' idx' data' = cmdWord (op &&& op') (idx &&& idx') (data &&& data') := by
  apply BitVec.eq_of_getLsbD_eq
  intro n hn
  simp only [cmdWord, BitVec.getLsbD_and, BitVec.getLsbD_append]
  split_ifs <;> rfl

/-- A command word as a number (R41). -/
theorem cmdWord_toNat (op idx : BitVec 4) (data : Word) :
    (cmdWord op idx data).toNat = op.toNat * 2 ^ 36 + idx.toNat * 2 ^ 32 + data.toNat := by
  have h1 : op.toNat < 2 ^ 4 := op.isLt
  have h2 : idx.toNat < 2 ^ 4 := idx.isLt
  have h3 : data.toNat < 2 ^ 32 := data.isLt
  rw [cmdWord, BitVec.toNat_append, BitVec.toNat_append, ← Nat.shiftLeft_add_eq_or_of_lt h2,
    ← Nat.shiftLeft_add_eq_or_of_lt h3, Nat.shiftLeft_eq, Nat.shiftLeft_eq]
  omega

@[simp] theorem roundNumber_selector (fn : RoundFn) (i : BitVec 4) : roundNumber (selector fn i) = fn.number := by
  revert i
  cases fn <;> decide

@[simp] theorem localStep_selector (fn : RoundFn) (i : BitVec 4) : localStep (selector fn i) = i := by
  revert i
  cases fn <;> decide

@[simp] theorem RoundFn.ofNumber_number (fn : RoundFn) : RoundFn.ofNumber fn.number = fn := by
  cases fn <;> rfl

/-- Every value of t is the selector of its round and local step (R39). -/
theorem selector_ofIndex (t : StepIndex) : selector (RoundFn.ofNumber (roundNumber t)) (localStep t) = t := by
  revert t
  decide

/-- The step index as a number: `t = 16 * r + i` (R39). -/
theorem selector_toNat (fn : RoundFn) (i : BitVec 4) : (selector fn i).toNat = 16 * fn.number.toNat + i.toNat := by
  revert i
  cases fn <;> decide

end Sys2Proof
end

