-- ==== Sys2Proof/Laws/Primitives.lean ====
section
/-! SUPPORT. The primitives as operations on bit vectors: the adders are +, the rotator is the rotation to the left on its
domain; and the step in those terms. -/

namespace Sys2Proof.Machine

@[simp] theorem add32_eq (x y : Word) : add32 x y = x + y := by
  apply BitVec.eq_of_toNat_eq
  simp [add32]

/-- The four-operand adder of the step (R48). -/
@[simp] theorem sum32_four (x y z u : Word) : sum32 [x, y, z, u] = x + y + z + u := by
  apply BitVec.eq_of_toNat_eq
  simp [sum32, Nat.add_assoc]

/-- On its domain the rotator rotates to the left (R45). -/
theorem rotl32_eq_rotateLeft (x : Word) (n : Nat) (h1 : 1 ≤ n) (h2 : n ≤ 31) : rotl32 x n = x.rotateLeft n := by
  rw [rotl32, if_pos ⟨h1, h2⟩]
  apply BitVec.eq_of_toNat_eq
  rw [BitVec.toNat_rotateLeft, BitVec.toNat_ofNat, Nat.mod_eq_of_lt (show n < 32 by omega), Nat.or_mod_two_pow,
    Nat.mod_eq_of_lt (show x.toNat >>> (32 - n) < 2 ^ 32 from lt_of_le_of_lt (Nat.shiftRight_le _ _) x.isLt)]

/-- Every rotation amount is in the rotator's domain (R69). -/
theorem rotAmount_range (t : StepIndex) : 1 ≤ rotAmount t ∧ rotAmount t ≤ 31 := by
  revert t
  decide

/-- The result of a step over bit vectors (R72). -/
theorem stepResult_eq (fn : RoundFn) (t : StepIndex) (w : Quad) (x : Word) :
    stepResult fn t w x =
      (w.a + roundFunction fn w.b w.c w.d + x + roundConstant t).rotateLeft (rotAmount t) + w.b := by
  rw [stepResult, rotl32_eq_rotateLeft _ _ (rotAmount_range t).1 (rotAmount_range t).2, sum32_four, add32_eq]

@[simp] theorem addQuad_eq (x y : Quad) : addQuad x y = ⟨x.a + y.a, x.b + y.b, x.c + y.c, x.d + y.d⟩ := by
  simp [addQuad]

@[simp] theorem workAfter_zero (acc : Quad) (m : Words) : workAfter acc m 0 = acc := rfl

theorem workAfter_succ (acc : Quad) (m : Words) (n : Nat) :
    workAfter acc m (n + 1) = stepAt (BitVec.ofNat 6 n) (workAfter acc m n) m := rfl

end Sys2Proof.Machine
end

