-- ==== Sys2Proof/Laws/State.lean ====
section
/-! SUPPORT. What each shared update of the state does to each field: one lemma per field per update, true by rfl, so that no
proof unfolds a record update. -/

namespace Sys2Proof.Machine

section clearResponse

@[simp] theorem State.clearResponse_acc (s : State) : s.clearResponse.acc = s.acc := rfl
@[simp] theorem State.clearResponse_work (s : State) : s.clearResponse.work = s.work := rfl
@[simp] theorem State.clearResponse_msg (s : State) : s.clearResponse.msg = s.msg := rfl
@[simp] theorem State.clearResponse_mv (s : State) : s.clearResponse.mv = s.mv := rfl
@[simp] theorem State.clearResponse_t (s : State) : s.clearResponse.t = s.t := rfl
@[simp] theorem State.clearResponse_phase (s : State) : s.clearResponse.phase = s.phase := rfl
@[simp] theorem State.clearResponse_fcode (s : State) : s.clearResponse.fcode = s.fcode := rfl
@[simp] theorem State.clearResponse_rspv (s : State) : s.clearResponse.rspv = false := rfl
@[simp] theorem State.clearResponse_rsp (s : State) : s.clearResponse.rsp = 0 := rfl
@[simp] theorem State.clearResponse_host (s : State) : s.clearResponse.host = s.host := rfl

end clearResponse

section respond

@[simp] theorem State.respond_acc (s : State) (v : Word) : (s.respond v).acc = s.acc := rfl
@[simp] theorem State.respond_work (s : State) (v : Word) : (s.respond v).work = s.work := rfl
@[simp] theorem State.respond_msg (s : State) (v : Word) : (s.respond v).msg = s.msg := rfl
@[simp] theorem State.respond_mv (s : State) (v : Word) : (s.respond v).mv = s.mv := rfl
@[simp] theorem State.respond_t (s : State) (v : Word) : (s.respond v).t = s.t := rfl
@[simp] theorem State.respond_phase (s : State) (v : Word) : (s.respond v).phase = s.phase := rfl
@[simp] theorem State.respond_fcode (s : State) (v : Word) : (s.respond v).fcode = s.fcode := rfl
@[simp] theorem State.respond_rspv (s : State) (v : Word) : (s.respond v).rspv = true := rfl
@[simp] theorem State.respond_rsp (s : State) (v : Word) : (s.respond v).rsp = v := rfl
@[simp] theorem State.respond_host (s : State) (v : Word) : (s.respond v).host = s.host := rfl

end respond

section raiseFault

@[simp] theorem State.raiseFault_acc (s : State) (code : BitVec 4) : (s.raiseFault code).acc = s.acc := rfl
@[simp] theorem State.raiseFault_work (s : State) (code : BitVec 4) : (s.raiseFault code).work = s.work := rfl
@[simp] theorem State.raiseFault_msg (s : State) (code : BitVec 4) : (s.raiseFault code).msg = s.msg := rfl
@[simp] theorem State.raiseFault_mv (s : State) (code : BitVec 4) : (s.raiseFault code).mv = s.mv := rfl
@[simp] theorem State.raiseFault_t (s : State) (code : BitVec 4) : (s.raiseFault code).t = s.t := rfl
@[simp] theorem State.raiseFault_phase (s : State) (code : BitVec 4) : (s.raiseFault code).phase = .halt := rfl
@[simp] theorem State.raiseFault_fcode (s : State) (code : BitVec 4) : (s.raiseFault code).fcode = code := rfl
@[simp] theorem State.raiseFault_rspv (s : State) (code : BitVec 4) : (s.raiseFault code).rspv = false := rfl
@[simp] theorem State.raiseFault_rsp (s : State) (code : BitVec 4) : (s.raiseFault code).rsp = 0 := rfl
@[simp] theorem State.raiseFault_host (s : State) (code : BitVec 4) : (s.raiseFault code).host = s.host := rfl

end raiseFault

section setMsgWord

@[simp] theorem State.setMsgWord_acc (s : State) (k : BitVec 4) (v : Word) : (s.setMsgWord k v).acc = s.acc := rfl
@[simp] theorem State.setMsgWord_work (s : State) (k : BitVec 4) (v : Word) : (s.setMsgWord k v).work = s.work := rfl
@[simp] theorem State.setMsgWord_msg (s : State) (k : BitVec 4) (v : Word) : (s.setMsgWord k v).msg = s.msg.set k.toNat v := rfl
@[simp] theorem State.setMsgWord_mv (s : State) (k : BitVec 4) (v : Word) : (s.setMsgWord k v).mv = s.mv := rfl
@[simp] theorem State.setMsgWord_t (s : State) (k : BitVec 4) (v : Word) : (s.setMsgWord k v).t = s.t := rfl
@[simp] theorem State.setMsgWord_phase (s : State) (k : BitVec 4) (v : Word) : (s.setMsgWord k v).phase = s.phase := rfl
@[simp] theorem State.setMsgWord_fcode (s : State) (k : BitVec 4) (v : Word) : (s.setMsgWord k v).fcode = s.fcode := rfl
@[simp] theorem State.setMsgWord_rspv (s : State) (k : BitVec 4) (v : Word) : (s.setMsgWord k v).rspv = s.rspv := rfl
@[simp] theorem State.setMsgWord_rsp (s : State) (k : BitVec 4) (v : Word) : (s.setMsgWord k v).rsp = s.rsp := rfl
@[simp] theorem State.setMsgWord_host (s : State) (k : BitVec 4) (v : Word) : (s.setMsgWord k v).host = s.host := rfl

end setMsgWord

section setValid

@[simp] theorem State.setValid_acc (s : State) (k : BitVec 4) : (s.setValid k).acc = s.acc := rfl
@[simp] theorem State.setValid_work (s : State) (k : BitVec 4) : (s.setValid k).work = s.work := rfl
@[simp] theorem State.setValid_msg (s : State) (k : BitVec 4) : (s.setValid k).msg = s.msg := rfl
@[simp] theorem State.setValid_mv (s : State) (k : BitVec 4) : (s.setValid k).mv = s.mv ||| BitVec.twoPow 16 k.toNat := rfl
@[simp] theorem State.setValid_t (s : State) (k : BitVec 4) : (s.setValid k).t = s.t := rfl
@[simp] theorem State.setValid_phase (s : State) (k : BitVec 4) : (s.setValid k).phase = s.phase := rfl
@[simp] theorem State.setValid_fcode (s : State) (k : BitVec 4) : (s.setValid k).fcode = s.fcode := rfl
@[simp] theorem State.setValid_rspv (s : State) (k : BitVec 4) : (s.setValid k).rspv = s.rspv := rfl
@[simp] theorem State.setValid_rsp (s : State) (k : BitVec 4) : (s.setValid k).rsp = s.rsp := rfl
@[simp] theorem State.setValid_host (s : State) (k : BitVec 4) : (s.setValid k).host = s.host := rfl

end setValid

section applyStep

@[simp] theorem State.applyStep_acc (s : State) (fn : RoundFn) (i : BitVec 4) : (s.applyStep fn i).acc = s.acc := rfl
@[simp] theorem State.applyStep_work (s : State) (fn : RoundFn) (i : BitVec 4) : (s.applyStep fn i).work = roundStep fn i s.work s.msg := rfl
@[simp] theorem State.applyStep_msg (s : State) (fn : RoundFn) (i : BitVec 4) : (s.applyStep fn i).msg = s.msg := rfl
@[simp] theorem State.applyStep_mv (s : State) (fn : RoundFn) (i : BitVec 4) : (s.applyStep fn i).mv = s.mv := rfl
@[simp] theorem State.applyStep_t (s : State) (fn : RoundFn) (i : BitVec 4) : (s.applyStep fn i).t = s.t := rfl
@[simp] theorem State.applyStep_phase (s : State) (fn : RoundFn) (i : BitVec 4) : (s.applyStep fn i).phase = s.phase := rfl
@[simp] theorem State.applyStep_fcode (s : State) (fn : RoundFn) (i : BitVec 4) : (s.applyStep fn i).fcode = s.fcode := rfl
@[simp] theorem State.applyStep_rspv (s : State) (fn : RoundFn) (i : BitVec 4) : (s.applyStep fn i).rspv = s.rspv := rfl
@[simp] theorem State.applyStep_rsp (s : State) (fn : RoundFn) (i : BitVec 4) : (s.applyStep fn i).rsp = s.rsp := rfl
@[simp] theorem State.applyStep_host (s : State) (fn : RoundFn) (i : BitVec 4) : (s.applyStep fn i).host = s.host := rfl

end applyStep

section startRun

@[simp] theorem State.startRun_acc (s : State) : s.startRun.acc = s.acc := rfl
@[simp] theorem State.startRun_work (s : State) : s.startRun.work = s.acc := rfl
@[simp] theorem State.startRun_msg (s : State) : s.startRun.msg = s.msg := rfl
@[simp] theorem State.startRun_mv (s : State) : s.startRun.mv = s.mv := rfl
@[simp] theorem State.startRun_t (s : State) : s.startRun.t = 0 := rfl
@[simp] theorem State.startRun_phase (s : State) : s.startRun.phase = .step := rfl
@[simp] theorem State.startRun_fcode (s : State) : s.startRun.fcode = s.fcode := rfl
@[simp] theorem State.startRun_rspv (s : State) : s.startRun.rspv = false := rfl
@[simp] theorem State.startRun_rsp (s : State) : s.startRun.rsp = 0 := rfl
@[simp] theorem State.startRun_host (s : State) : s.startRun.host = s.host := rfl

end startRun

section feedTransition

@[simp] theorem State.feedTransition_acc (s : State) : s.feedTransition.acc = addQuad s.acc s.work := rfl
@[simp] theorem State.feedTransition_work (s : State) : s.feedTransition.work = s.work := rfl
@[simp] theorem State.feedTransition_msg (s : State) : s.feedTransition.msg = s.msg := rfl
@[simp] theorem State.feedTransition_mv (s : State) : s.feedTransition.mv = 0 := rfl
@[simp] theorem State.feedTransition_t (s : State) : s.feedTransition.t = 0 := rfl
@[simp] theorem State.feedTransition_phase (s : State) : s.feedTransition.phase = .idle := rfl
@[simp] theorem State.feedTransition_fcode (s : State) : s.feedTransition.fcode = s.fcode := rfl
@[simp] theorem State.feedTransition_rspv (s : State) : s.feedTransition.rspv = false := rfl
@[simp] theorem State.feedTransition_rsp (s : State) : s.feedTransition.rsp = 0 := rfl
@[simp] theorem State.feedTransition_host (s : State) : s.feedTransition.host = s.host := rfl

end feedTransition

section tick

@[simp] theorem State.tick_acc (s : State) : s.tick.acc = s.acc := rfl
@[simp] theorem State.tick_work (s : State) : s.tick.work = s.work := rfl
@[simp] theorem State.tick_msg (s : State) : s.tick.msg = s.msg := rfl
@[simp] theorem State.tick_mv (s : State) : s.tick.mv = s.mv := rfl
@[simp] theorem State.tick_t (s : State) : s.tick.t = s.t := rfl
@[simp] theorem State.tick_phase (s : State) : s.tick.phase = s.phase := rfl
@[simp] theorem State.tick_fcode (s : State) : s.tick.fcode = s.fcode := rfl
@[simp] theorem State.tick_rspv (s : State) : s.tick.rspv = s.rspv := rfl
@[simp] theorem State.tick_rsp (s : State) : s.tick.rsp = s.rsp := rfl
@[simp] theorem State.tick_host (s : State) : s.tick.host = s.host.tail := rfl

end tick

section resetEngine

@[simp] theorem State.resetEngine_acc (s : State) : s.resetEngine.acc = State.reset.acc := rfl
@[simp] theorem State.resetEngine_work (s : State) : s.resetEngine.work = State.reset.work := rfl
@[simp] theorem State.resetEngine_msg (s : State) : s.resetEngine.msg = State.reset.msg := rfl
@[simp] theorem State.resetEngine_mv (s : State) : s.resetEngine.mv = State.reset.mv := rfl
@[simp] theorem State.resetEngine_t (s : State) : s.resetEngine.t = State.reset.t := rfl
@[simp] theorem State.resetEngine_phase (s : State) : s.resetEngine.phase = State.reset.phase := rfl
@[simp] theorem State.resetEngine_fcode (s : State) : s.resetEngine.fcode = State.reset.fcode := rfl
@[simp] theorem State.resetEngine_rspv (s : State) : s.resetEngine.rspv = State.reset.rspv := rfl
@[simp] theorem State.resetEngine_rsp (s : State) : s.resetEngine.rsp = State.reset.rsp := rfl
@[simp] theorem State.resetEngine_host (s : State) : s.resetEngine.host = s.host := rfl

end resetEngine

end Sys2Proof.Machine
end

