-- ==== Sys2Proof/Laws/Ops.lean ====
section
/-! SUPPORT. What each shared operation can do, said once: acceptance by phase, the STEP transition, the choice of the next
transition, exec and step. Later proofs cite these and do not unfold the operations. -/

namespace Sys2Proof.Machine

section accept

variable (s : State) (f g : State → State)

theorem State.accept_idle (h : s.phase = .idle) : s.accept f g = f s := by simp [State.accept, h]

theorem State.accept_halt (h : s.phase = .halt) : s.accept f g = g s := by simp [State.accept, h]

theorem State.accept_busy (h : s.busy = true) : s.accept f g = s := by
  unfold State.busy at h
  unfold State.accept
  split at h <;> simp_all

/-- Acceptance does one of three things, by phase (R33, R93). -/
theorem State.accept_cases :
    (s.phase = .idle ∧ s.accept f g = f s) ∨ (s.phase = .halt ∧ s.accept f g = g s) ∨
      (s.busy = true ∧ s.accept f g = s) := by
  unfold State.accept State.busy
  cases s.phase <;> simp

end accept

section steps

/-- The STEP transition when it is enabled (R81). -/
theorem State.stepTransition_enabled (s : State) (fn : RoundFn) (i : BitVec 4) (hp : s.phase = .step)
    (ht : s.t = selector fn i) :
    s.stepTransition fn i =
      { s with
        work := roundStep fn i s.work s.msg
        phase := if s.t = 63 then .feed else .step
        t := if s.t = 63 then s.t else s.t + 1
        rspv := false
        rsp := 0 } := by
  unfold State.stepTransition
  rw [if_pos ⟨hp, ht⟩]
  obtain ⟨acc, work, msg, mv, t, phase, fcode, rspv, rsp, host⟩ := s
  subst hp
  by_cases h : t = 63
  · simp only [if_pos h]
    exact congrArg State.clearResponse (if_pos h)
  · simp only [if_neg h]
    exact congrArg State.clearResponse (if_neg h)

/-- A step that is not selected changes nothing (R15, R39). -/
theorem State.stepTransition_disabled (s : State) (fn : RoundFn) (i : BitVec 4)
    (h : ¬(s.phase = .step ∧ s.t = selector fn i)) : s.stepTransition fn i = s := if_neg h

/-- The micro-operation that t selects, as the STEP transition (R39, R81). -/
theorem exec_decodeSelector (s : State) :
    exec (decodeSelector s.t) s =
      .next (s.stepTransition (RoundFn.ofNumber (roundNumber s.t)) (localStep s.t)) := by
  unfold decodeSelector
  cases h : RoundFn.ofNumber (roundNumber s.t) <;> rfl

/-- The STEP transition of the selected micro-operation, in terms of `step_t` (R84). -/
theorem exec_decodeSelector_step (s s₀ : State) (hs : s₀.t = s.t) (hp : s.phase = .step) :
    exec (decodeSelector s₀.t) s =
      .next { s with
        work := stepAt s.t s.work s.msg
        phase := if s.t = 63 then .feed else .step
        t := if s.t = 63 then s.t else s.t + 1
        rspv := false
        rsp := 0 } := by
  rw [hs, exec_decodeSelector, State.stepTransition_enabled _ _ _ hp (selector_ofIndex s.t).symm, stepAt]

end steps

section outcomes

/-- Every meaning answers a next state. -/
theorem exec_next (i : Instr) (s : State) : ∃ s', exec i s = .next s' := by
  cases i <;> exact ⟨_, rfl⟩

@[simp] theorem nextOr_next (s s' : State) : nextOr s (.next s') = s' := rfl

/-- A meaning's next state is the one nextOr takes. -/
theorem exec_eq_nextOr (i : Instr) (s : State) : exec i s = .next (nextOr s (exec i s)) := by
  obtain ⟨s', h⟩ := exec_next i s
  rw [h, nextOr_next]

end outcomes

section select

variable (s : State)

theorem State.select_reset (h : s.pins.rst = true) : s.select = .reset := by simp [State.select, h]

theorem State.select_step (h : s.pins.rst = false) (hp : s.phase = .step) :
    s.select = .instr (decodeSelector s.t) := by simp [State.select, h, hp]

theorem State.select_feed (h : s.pins.rst = false) (hp : s.phase = .feed) : s.select = .feed := by
  simp [State.select, h, hp]

/-- In IDLE and HALT the command port decides (R15, R33). -/
theorem State.select_ready (h : s.pins.rst = false) (hp : s.phase = .idle ∨ s.phase = .halt) :
    s.select = s.pins.selectCommand := by
  rcases hp with hp | hp <;> simp [State.select, h, hp]

theorem HostPins.selectCommand_cases (p : HostPins) :
    (∃ i, p.selectCommand = .instr i ∧ p.cmdValid = true ∧ decodeCommand p.cmd = .instr i) ∨
      (p.selectCommand = .illegal ∧ p.cmdValid = true ∧ decodeCommand p.cmd = .illegal) ∨
      (p.selectCommand = .wait ∧ p.cmdValid = false) := by
  unfold HostPins.selectCommand
  cases hv : p.cmdValid
  · simp
  · cases hd : decodeCommand p.cmd <;> simp [Selected.ofDecoded]

/-- A decoded command is one of the five commands: no word is a micro-operation (R35, R39). -/
theorem decodeCommand_isCommand (c : CmdWord) (i : Instr) (h : decodeCommand c = .instr i) : i.isCommand = true := by
  unfold decodeCommand decodeIf at h
  split at h
  all_goals first
    | (split_ifs at h; injection h with h; subst h; rfl)
    | (injection h with h; subst h; rfl)
    | exact absurd h (by simp)

/-- What the next transition is, and why (R15, R114). -/
theorem State.select_cases :
    (s.select = .reset ∧ s.pins.rst = true) ∨
      (s.pins.rst = false ∧ s.phase = .step ∧ s.select = .instr (decodeSelector s.t)) ∨
      (s.pins.rst = false ∧ s.phase = .feed ∧ s.select = .feed) ∨
      (s.pins.rst = false ∧ (s.phase = .idle ∨ s.phase = .halt) ∧
        ((∃ i, s.select = .instr i ∧ i.isCommand = true ∧ s.pins.cmdValid = true ∧
            decodeCommand s.pins.cmd = .instr i) ∨
          (s.select = .illegal ∧ s.pins.cmdValid = true ∧ decodeCommand s.pins.cmd = .illegal) ∨
          (s.select = .wait ∧ s.pins.cmdValid = false))) := by
  cases hr : s.pins.rst
  · right
    cases hp : s.phase
    · right; right
      refine ⟨rfl, .inl rfl, ?_⟩
      rw [s.select_ready hr (.inl hp)]
      rcases s.pins.selectCommand_cases with ⟨i, h1, h2, h3⟩ | h | h
      · exact .inl ⟨i, h1, decodeCommand_isCommand _ _ h3, h2, h3⟩
      · exact .inr (.inl h)
      · exact .inr (.inr h)
    · exact .inl ⟨rfl, rfl, s.select_step hr hp⟩
    · exact .inr (.inl ⟨rfl, rfl, s.select_feed hr hp⟩)
    · right; right
      refine ⟨rfl, .inr rfl, ?_⟩
      rw [s.select_ready hr (.inr hp)]
      rcases s.pins.selectCommand_cases with ⟨i, h1, h2, h3⟩ | h | h
      · exact .inl ⟨i, h1, decodeCommand_isCommand _ _ h3, h2, h3⟩
      · exact .inr (.inl h)
      · exact .inr (.inr h)
  · exact .inl ⟨s.select_reset hr, rfl⟩

end select

section step

variable {s s' : State}

/-- What a command does to a ready engine, by instruction and phase (R89 to R93, R79). -/
theorem exec_command_cases {i : Instr} (hp : s.phase = .idle ∨ s.phase = .halt) (hc : i.isCommand = true)
    (h : exec i s = .next s') :
    (i = .init ∧ s.phase = .idle ∧ s' = State.clearResponse { s with acc := initialAcc }) ∨
      (∃ k v, i = .ldw k v ∧ s.phase = .idle ∧ s' = ((s.setMsgWord k v).setValid k).clearResponse) ∨
      (i = .run ∧ s.phase = .idle ∧ s.mv = 0xffff ∧ s' = s.startRun) ∨
      (i = .run ∧ s.phase = .idle ∧ s.mv ≠ 0xffff ∧ s' = s.raiseFault blockIncomplete) ∨
      (∃ j, i = .rdd j ∧ s' = s.respond (s.accWord j)) ∨
      (i = .rds ∧ s' = s.respond s.status) ∨
      (s.phase = .halt ∧ (i = .init ∨ (∃ k v, i = .ldw k v) ∨ i = .run) ∧ s' = s.clearResponse) := by
  cases i with
  | stepF _ => cases hc
  | stepG _ => cases hc
  | stepH _ => cases hc
  | stepI _ => cases hc
  | init =>
    injection h with h
    subst h
    rcases hp with hp | hp
    · rw [State.accept_idle _ _ _ hp]
      exact .inl ⟨rfl, hp, rfl⟩
    · rw [State.accept_halt _ _ _ hp]
      simp [hp]
  | ldw k v =>
    injection h with h
    subst h
    rcases hp with hp | hp
    · rw [State.accept_idle _ _ _ hp]
      exact .inr (.inl ⟨k, v, rfl, hp, rfl⟩)
    · rw [State.accept_halt _ _ _ hp]
      simp [hp]
  | run =>
    injection h with h
    subst h
    rcases hp with hp | hp
    · rw [State.accept_idle _ _ _ hp]
      by_cases hm : s.mv = 0xffff
      · have hb : s.blockComplete = true := by simpa [State.blockComplete] using hm
        rw [if_pos hb]
        exact .inr (.inr (.inl ⟨rfl, hp, hm, rfl⟩))
      · have hb : ¬s.blockComplete = true := by simpa [State.blockComplete] using hm
        rw [if_neg hb]
        exact .inr (.inr (.inr (.inl ⟨rfl, hp, hm, rfl⟩)))
    · rw [State.accept_halt _ _ _ hp]
      simp [hp]
  | rdd j =>
    injection h with h
    subst h
    rcases hp with hp | hp
    · rw [State.accept_idle _ _ _ hp]
      simp
    · rw [State.accept_halt _ _ _ hp]
      simp
  | rds =>
    injection h with h
    subst h
    rcases hp with hp | hp
    · rw [State.accept_idle _ _ _ hp]
      simp
    · rw [State.accept_halt _ _ _ hp]
      simp

/-- What ILLEGAL does to a ready engine (R94, R93). -/
theorem illegalTransition_cases (hp : s.phase = .idle ∨ s.phase = .halt) :
    (s.phase = .idle ∧ s.illegalTransition = s.raiseFault illegalCmd) ∨
      (s.phase = .halt ∧ s.illegalTransition = s.clearResponse) := by
  rcases hp with hp | hp
  · exact .inl ⟨hp, State.accept_idle _ _ _ hp⟩
  · exact .inr ⟨hp, State.accept_halt _ _ _ hp⟩

/-- Everything a transition can do (R15): RESET, the STEP of the selected micro-operation, FEED, the acceptance of a command
or of an ILLEGAL word in IDLE or HALT, or WAIT. -/
theorem step_cases (h : step s = .next s') :
    (s.select = .reset ∧ s.pins.rst = true ∧ s' = s.tick.resetEngine) ∨
      (s.select = .instr (decodeSelector s.t) ∧ s.pins.rst = false ∧ s.phase = .step ∧
        s' = { s with
          host := s.host.tail
          work := stepAt s.t s.work s.msg
          phase := if s.t = 63 then .feed else .step
          t := if s.t = 63 then s.t else s.t + 1
          rspv := false
          rsp := 0 }) ∨
      (s.select = .feed ∧ s.pins.rst = false ∧ s.phase = .feed ∧ s' = s.tick.feedTransition) ∨
      ((s.phase = .idle ∨ s.phase = .halt) ∧ s.pins.rst = false ∧
        ((∃ i, s.select = .instr i ∧ i.isCommand = true ∧ s.pins.cmdValid = true ∧
            decodeCommand s.pins.cmd = .instr i ∧ exec i s.tick = .next s') ∨
          (s.select = .illegal ∧ s.pins.cmdValid = true ∧ decodeCommand s.pins.cmd = .illegal ∧
            s' = s.tick.illegalTransition) ∨
          (s.select = .wait ∧ s.pins.cmdValid = false ∧ s' = s.tick.waitTransition))) := by
  rcases s.select_cases with ⟨hs, hr⟩ | ⟨hr, hp, hs⟩ | ⟨hr, hp, hs⟩ |
    ⟨hr, hp, ⟨i, hs, hc, hv, hd⟩ | ⟨hs, hv, hd⟩ | ⟨hs, hv⟩⟩
  · rw [step, hs] at h
    injection h with h
    exact .inl ⟨hs, hr, h.symm⟩
  · rw [step, hs] at h
    have h' := (exec_decodeSelector_step s.tick s rfl hp).symm.trans h
    injection h' with h'
    exact .inr (.inl ⟨hs, hr, hp, h'.symm⟩)
  · rw [step, hs] at h
    injection h with h
    exact .inr (.inr (.inl ⟨hs, hr, hp, h.symm⟩))
  · rw [step, hs] at h
    exact .inr (.inr (.inr ⟨hp, hr, .inl ⟨i, hs, hc, hv, hd, h⟩⟩))
  · rw [step, hs] at h
    injection h with h
    exact .inr (.inr (.inr ⟨hp, hr, .inr (.inl ⟨hs, hv, hd, h.symm⟩)⟩))
  · rw [step, hs] at h
    injection h with h
    exact .inr (.inr (.inr ⟨hp, hr, .inr (.inr ⟨hs, hv, h.symm⟩)⟩))

end step

end Sys2Proof.Machine
end

