-- ==== Sys2Proof/Laws/PerInstr.lean ====
section
/-! SUPPORT. Facts stated for every instruction, one lemma per constructor: the code of an instruction has the length of its
kind (30_encoding.md R40). -/

namespace Sys2Proof.Laws.CodeLength

/-- A command has 40 bits, a micro-operation's selector 6 (R40), and the instruction is well formed. -/
def Statement (i : Instr) : Prop :=
  (encode i).length = (if i.isCommand then 40 else 6) ∧ i.wellFormed = true

theorem init : Statement .init := ⟨rfl, rfl⟩
theorem ldw (k : BitVec 4) (v : Word) : Statement (.ldw k v) := ⟨rfl, rfl⟩
theorem run : Statement .run := ⟨rfl, rfl⟩
theorem rdd (j : BitVec 2) : Statement (.rdd j) := ⟨rfl, rfl⟩
theorem rds : Statement .rds := ⟨rfl, rfl⟩
theorem stepF (i : BitVec 4) : Statement (.stepF i) := ⟨rfl, rfl⟩
theorem stepG (i : BitVec 4) : Statement (.stepG i) := ⟨rfl, rfl⟩
theorem stepH (i : BitVec 4) : Statement (.stepH i) := ⟨rfl, rfl⟩
theorem stepI (i : BitVec 4) : Statement (.stepI i) := ⟨rfl, rfl⟩

end Sys2Proof.Laws.CodeLength
end

