-- ==== Sys2Proof/Laws/Run.lean ====
section
/-! SUPPORT. Runs of the machine: the first transition taken off a run, and a run cut in two. -/

namespace Sys2Proof.Machine

/-- A run whose first transition is known. -/
theorem run_succ_of_step (M : Host.Core) (k : Nat) (s s' : M.State) (h : M.step s = .next s') :
    M.run (k + 1) s = M.run k s' := by
  rw [Host.Core.run, h]

/-- A run of m + n transitions is a run of n after a run of m. -/
theorem run_add_of_run (M : Host.Core) (m n : Nat) (s s' : M.State) (h : M.run m s = .next s') :
    M.run (m + n) s = M.run n s' := by
  induction m generalizing s with
  | zero =>
    injection h with h
    rw [Nat.zero_add, h]
  | succ m ih =>
    rw [Nat.succ_add]
    rw [Host.Core.run] at h ⊢
    cases hs : M.step s with
    | next u =>
      rw [hs] at h
      exact ih u h
    | fault r =>
      rw [hs] at h
      cases h
    | refused r =>
      rw [hs] at h
      cases h

/-- One transition as a run. -/
theorem core_run_one (s s' : State) (h : step s = .next s') : Host.Core.run Sys2Proof.core 1 s = .next s' :=
  run_succ_of_step Sys2Proof.core 0 s s' h

end Sys2Proof.Machine
end

