-- ==== Sys2Proof/Tests/Slice0.lean ====
section
/-! SUPPORT. The model's own tests. Every expected value is a row of spec/95_test_vectors.md or hand-worked from the rule named;
the witness_ theorems show, for each statement with hypotheses, operands and a state that meet them together. -/

namespace Sys2Proof.Tests

open Sys2Proof.Machine

/-! ### Helpers -/

/-- The next state of an outcome. -/
def next? : Host.Outcome State Fault Refusal → Option State
  | .next s => some s
  | .fault _ => none
  | .refused _ => none

/-- The next state after command word c at the pins. -/
def given (c : CmdWord) (s : State) : Option State := next? (step { s with host := [HostPins.present c] })

/-- The reset state with the host's coming pin levels. -/
def withHost (host : List HostPins) : State := { State.reset with host := host }

/-- Pins with `rst` asserted beside a command. -/
def resetPins : HostPins := ⟨true, true, 0x2000000080⟩

/-- A fault recorded, as after RUN on an incomplete block (K24). -/
def halted : State := { State.reset with fcode := 2, phase := .halt }

/-- The accumulator after hashing the empty message (K2). -/
def hashedEmpty : State := { State.reset with acc := ⟨0xd98c1dd4, 0x04b2008f, 0x980980e9, 0x7e42f8ec⟩ }

/-- A complete block: the padded empty message (section 2.2). -/
def emptyMessageWords : Words := #v[0x80, 0, 0, 0, 0, 0, 0, 0, 0, 0, 0, 0, 0, 0, 0, 0]

/-- The reset state with the padded empty message loaded (K12). -/
def loaded : State := { State.reset with msg := emptyMessageWords, mv := 0xffff }

/-- A RUN before step t of section 2.5: sixteen times the word x, working registers w. -/
def stepping (t : StepIndex) (w : Quad) (x : Word) : State :=
  { State.reset with work := w, msg := Vector.replicate 16 x, mv := 0xffff, t := t, phase := .step }

/-- The RUN on `loaded` just after its acceptance (R79). -/
def started : State := { loaded with work := initialAcc, phase := .step }

/-- A RUN whose 64 steps are done: the working registers of row B1 (section 2.6). -/
def feeding : State :=
  { loaded with work := ⟨0x7246fad3, 0x14e45506, 0xff4ea3eb, 0x6e10a476⟩, t := 63, phase := .feed }

/-! ### WellFormed: an ill-formed term for each check, refused -/

theorem test_ldw_index_16_refused : (AsmLine.ldw 16 0).wellFormed = false ∧ assembleLine (.ldw 16 0) = none := by decide

theorem test_ldw_value_33_bits_refused :
    (AsmLine.ldw 0 0x100000000).wellFormed = false ∧ assembleLine (.ldw 0 0x100000000) = none := by decide

theorem test_rdd_index_4_refused : (AsmLine.rdd 4).wellFormed = false ∧ assembleLine (.rdd 4) = none := by decide

theorem test_word_41_bits_refused :
    (AsmLine.word 0x10000000000).wellFormed = false ∧ assembleLine (.word 0x10000000000) = none := by decide

theorem test_ldblk_63_bytes_refused :
    (AsmLine.ldblk (List.replicate 63 0)).wellFormed = false ∧ assembleLine (.ldblk (List.replicate 63 0)) = none := by
  decide

theorem test_hashblk_65_bytes_refused :
    (AsmLine.hashblk (List.replicate 65 0)).wellFormed = false ∧
    assembleLine (.hashblk (List.replicate 65 0)) = none := by
  decide

theorem test_lines_at_their_limits_accepted :
    (AsmLine.ldw 15 0xffffffff).wellFormed = true ∧ (AsmLine.rdd 3).wellFormed = true ∧
    (AsmLine.word 0xffffffffff).wellFormed = true := by decide

/-! ### Decoding: words written out from R35 to R37, R39 (op, idx, data; then 16 r + i) -/

theorem test_decode_init : decodeCommand 0b0001000000000000000000000000000000000000#40 = .instr .init := by decide

theorem test_decode_ldw :
    decodeCommand 0b0010000010000000011000110110001001100001#40 = .instr (.ldw 0 0x80636261) ∧
    decodeCommand 0b0010111000000000000000000000000000011000#40 = .instr (.ldw 14 0x18) := by decide

theorem test_decode_run : decodeCommand 0b0011000000000000000000000000000000000000#40 = .instr .run := by decide

theorem test_decode_rdd : decodeCommand 0b0100001100000000000000000000000000000000#40 = .instr (.rdd 3) := by decide

theorem test_decode_rds : decodeCommand 0b0101000000000000000000000000000000000000#40 = .instr .rds := by decide

theorem test_decode_step_f : decodeSelector 0b000101#6 = .stepF 5 := by decide

theorem test_decode_step_g : decodeSelector 0b011111#6 = .stepG 15 := by decide

theorem test_decode_step_h : decodeSelector 0b100100#6 = .stepH 4 := by decide

theorem test_decode_step_i : decodeSelector 0b111111#6 = .stepI 15 := by decide

/-- The refused words K16 to K23. -/
theorem test_decode_illegal :
    decodeCommand 0x0000000000#40 = .illegal ∧ decodeCommand 0xffffffffff#40 = .illegal ∧
    decodeCommand 0x1000000001#40 = .illegal ∧ decodeCommand 0x3100000000#40 = .illegal ∧
    decodeCommand 0x4400000000#40 = .illegal ∧ decodeCommand 0x4000000001#40 = .illegal ∧
    decodeCommand 0x5800000000#40 = .illegal ∧ decodeCommand 0x6000000000#40 = .illegal := by decide

theorem test_table_words :
    decodeTableWord 40 0x1000000000 = some .init ∧ decodeTableWord 40 0x2f00000000 = some (.ldw 15 0) ∧
    decodeTableWord 40 0x4200000000 = some (.rdd 2) ∧ decodeTableWord 8 0x3f = some (.stepI 15) ∧
    decodeTableWord 6 0x10 = some (.stepG 0) ∧ decodeTableWord 40 0 = none := by decide

/-- A placed selector runs as the first step after reset; so does a placed command. -/
theorem test_placed_instructions_run :
    (next? (step (State.reset.withFetchWord 8 0x3f))).map (·.phase) = some .feed ∧
    (next? (step (State.reset.withFetchWord 40 0x4300000000))).map (·.rsp) = some 0x10325476 := by decide

/-! ### Primitives and tables (sections 2.1 to 2.4) -/

theorem test_rotl32 :
    rotl32 0x12345678 7 = 0x1a2b3c09 ∧ rotl32 0x80000000 1 = 1 ∧ rotl32 1 31 = 0x80000000 ∧
    rotl32 0xdeadbeef 27 = 0x7ef56df7 := by decide

theorem test_adders :
    add32 0xffffffff 1 = 0 ∧ sum32 [0xffffffff, 0xffffffff, 0xffffffff, 0xffffffff] = 0xfffffffc ∧
    sum32 [0x67452301, 0x98badcfe, 0x80, 0xd76aa478] = 0xd76aa4f7 := by decide

theorem test_bytes :
    leBytes 8 0x158 = [0x58, 0x01, 0, 0, 0, 0, 0, 0] ∧ leBytes 4 0xd98c1dd4 = [0xd4, 0x1d, 0x8c, 0xd9] ∧
    leWord 0x61 0x62 0x63 0x80 = 0x80636261 := by decide

theorem test_padding_length :
    paddingLength 0 = 56 ∧ paddingLength 55 = 1 ∧ paddingLength 56 = 64 ∧ paddingLength 57 = 63 ∧
    paddingLength 64 = 56 ∧ paddingLength 120 = 64 := by decide

theorem test_length_suffix :
    lengthSuffix (2 ^ 29) = [0, 0, 0, 0, 1, 0, 0, 0] ∧ lengthSuffix (2 ^ 61) = List.replicate 8 0 := by decide

/-- The row with all eight input combinations. -/
theorem test_nonlinear :
    fnF 0xaaaaaaaa 0xcccccccc 0xf0f0f0f0 = 0xd8d8d8d8 ∧ fnG 0xaaaaaaaa 0xcccccccc 0xf0f0f0f0 = 0xacacacac ∧
    fnH 0xaaaaaaaa 0xcccccccc 0xf0f0f0f0 = 0x96969696 ∧ fnI 0xaaaaaaaa 0xcccccccc 0xf0f0f0f0 = 0x63636363 := by decide

theorem test_scheduler :
    msgIndex .F 15 = 15 ∧ msgIndex .G 15 = 12 ∧ msgIndex .H 4 = 1 ∧ msgIndex .I 15 = 9 := by decide

theorem test_constants :
    rotAmount 31 = 20 ∧ rotAmount 47 = 23 ∧ roundConstant 19 = 0xe9b6c7aa ∧ roundConstant 36 = 0xa4beea44 ∧
    roundConstant 55 = 0x85845dd1 ∧ roundConstant 63 = 0xeb86d391 := by decide

/-- Block B1 of section 2.6, and the source's digest of "abc" (S3). -/
theorem test_block : compress initialAcc emptyMessageWords = ⟨0xd98c1dd4, 0x04b2008f, 0x980980e9, 0x7e42f8ec⟩ := by
  decide +kernel

theorem test_digest_abc :
    digestText (digestWords (textBytes "abc")) = "900150983cd24fb0d6963f7d28e17f72".toList := by decide +kernel

/-! ### Commands (section 2.7) -/

theorem test_k2_init : (given 0x1000000000 hashedEmpty).map (·.acc) = some initialAcc := by decide

theorem test_k24_init_in_halt :
    (given 0x1000000000 { halted with acc := hashedEmpty.acc }).map (·.acc) = some hashedEmpty.acc := by decide

theorem test_k5_ldw :
    (given 0x2f00000000 State.reset).map (fun s => (s.mv, s.phase)) = some (0x8000, .idle) ∧
    (given 0x2080636261 State.reset).map (fun s => (s.msg[0], s.mv)) = some (0x80636261, 1) := by decide

theorem test_k25_ldw_in_halt :
    (given 0x2300000055 halted).map (fun s => (s.msg[3], s.mv)) = some (0, 0) := by decide

theorem test_k12_run :
    (given 0x3000000000 { loaded with acc := hashedEmpty.acc, t := 7 }).map (fun s => (s.work, s.phase, s.t)) =
      some (hashedEmpty.acc, .step, 0) := by
  decide

theorem test_k13_run_incomplete :
    (given 0x3000000000 { loaded with mv := 0x7fff }).map (fun s => (s.fcode, s.phase, s.mv)) =
      some (2, .halt, 0x7fff) := by
  decide

theorem test_k8_rdd : (given 0x4100000000 hashedEmpty).map (·.rsp) = some 0x04b2008f := by decide

theorem test_k29_rdd_in_halt : (given 0x4000000000 halted).map (·.rsp) = some 0x67452301 := by decide

theorem test_k10_rds : (given 0x5000000000 { State.reset with mv := 0x8001 }).map (·.rsp) = some 0x8001 := by decide

theorem test_k28_rds_in_halt : (given 0x5000000000 { halted with mv := 4 }).map (·.rsp) = some 0x20004 := by decide

theorem test_k18_illegal :
    (given 0x1000000001 State.reset).map (fun s => (s.fcode, s.phase)) = some (1, .halt) := by decide

theorem test_k26_illegal_in_halt : (given 0x0000000000 halted).map (·.fcode) = some 2 := by decide

/-- Z1 and Z3: reset during a RUN, presented together with a command. -/
theorem test_z1_reset : next? (step { started with t := 10, host := [resetPins] }) = some State.reset := by decide

/-! ### Single steps (section 2.5) -/

theorem test_step_f :
    (next? (exec (.stepF 5) (stepping 5 ⟨1, 2, 3, 4⟩ 5))).map (fun s => (s.work, s.t)) =
      some (⟨4, 0x7c63647a, 2, 3⟩, 6) := by
  decide

theorem test_step_g :
    (next? (exec (.stepG 5) (stepping 21 ⟨1, 2, 3, 4⟩ 5))).map (·.work) = some ⟨4, 0x8828b806, 2, 3⟩ := by decide

theorem test_step_h :
    (next? (exec (.stepH 5) (stepping 37 ⟨1, 2, 3, 4⟩ 5))).map (·.work) = some ⟨4, 0xf67da260, 2, 3⟩ := by decide

theorem test_step_i :
    (next? (exec (.stepI 15) (stepping 63 initialAcc 0x80636261))).map (fun s => (s.work, s.t, s.phase)) =
      some (⟨0x10325476, 0xfd170063, 0xefcdab89, 0x98badcfe⟩, 63, .feed) := by
  decide

/-- Message words 0 to 15 and zero registers: the last step of rounds 2, 3, 4 takes word 12, 2, 9 (section 2.4), so the result
is `rotl32(0x8d2a4c8a + 12, 20)`, `rotl32(0xc4ac5665 + 2, 23)`, `rotl32(0xeb86d391 - 1 + 9, 21)`, worked by hand. -/
theorem test_step_message_words :
    let s : State := { stepping 31 ⟨0, 0, 0, 0⟩ 0 with msg := Vector.ofFn fun k : Fin 16 => BitVec.ofNat 32 k.val }
    (next? (exec (.stepG 15) s)).map (·.work.b) = some 0xc968d2a4 ∧
    (next? (exec (.stepH 15) { s with t := 47 })).map (·.work.b) = some 0x33e2562b ∧
    (next? (exec (.stepI 15) { s with t := 63 })).map (·.work.b) = some 0x733d70da := by
  decide +kernel

/-- Checkpoint B1: FEED adds `w_64` into the accumulator and frees the buffer (section 4, last line). -/
theorem test_feed :
    (next? (step feeding)).map (fun s => (s.acc, s.mv, s.t, s.phase)) = some (hashedEmpty.acc, 0, 0, .idle) := by decide

/-! ### Witnesses: each statement's hypotheses are met, clause by clause -/

theorem witness_every_legal_code :
    decode (.cmd 0x2fffffffff#40) = .instr (.ldw 15 0xffffffff) ∧ decode (.sel 63) = .instr (.stepI 15) := by decide

theorem witness_assembler_operands :
    (15 ≤ 15 ∧ 0xffffffff ≤ 0xffffffff) ∧ (16 > 15 ∨ 0 > 0xffffffff) ∧ 3 ≤ 3 ∧ 4 > 3 ∧
    0xffffffffff ≤ 0xffffffffff ∧ 0x10000000000 > 0xffffffffff := by decide

theorem witness_step_runs_command :
    (withHost [HostPins.present 0x4300000000]).phase = .idle ∧
    (HostPins.present 0x4300000000).rst = false ∧ (HostPins.present 0x4300000000).cmdValid = true ∧
    decodeCommand (HostPins.present 0x4300000000).cmd = .instr (.rdd 3) := by decide

theorem witness_step_runs_command_in_halt :
    halted.phase = .halt ∧ (HostPins.present 0x5000000000).rst = false ∧
    (HostPins.present 0x5000000000).cmdValid = true ∧
    decodeCommand (HostPins.present 0x5000000000).cmd = .instr .rds := by decide

theorem witness_step_runs_micro_operation :
    started.phase = .step ∧ started.pins.rst = false ∧ decodeSelector started.t = .stepF 0 := by decide

theorem witness_reset : (withHost [resetPins]).pins.rst = true := by decide

theorem witness_illegal_word :
    (HostPins.present 0).rst = false ∧ (HostPins.present 0).cmdValid = true ∧
    decodeCommand (HostPins.present 0).cmd = .illegal ∧ (withHost [HostPins.present 0]).phase = .idle ∧
    ({ halted with host := [HostPins.present 0] } : State).phase = .halt := by decide

theorem witness_feed : feeding.phase = .feed ∧ feeding.pins.rst = false := by decide

theorem witness_wait_idle :
    State.reset.phase = .idle ∧ State.reset.pins.rst = false ∧ State.reset.pins.cmdValid = false := by decide

theorem witness_wait_halt : halted.phase = .halt ∧ halted.pins.rst = false ∧ halted.pins.cmdValid = false := by decide

theorem witness_commands_in_idle : State.reset.phase = .idle ∧ hashedEmpty.phase = .idle := by decide

theorem witness_run_complete : loaded.phase = .idle ∧ loaded.mv = 0xffff := by decide

theorem witness_run_incomplete :
    State.reset.phase = .idle ∧ State.reset.mv ≠ 0xffff ∧
    ({ loaded with mv := 0x7fff } : State).phase = .idle ∧ ({ loaded with mv := 0x7fff } : State).mv ≠ 0xffff := by decide

theorem witness_rds_legal : loaded.phase = .idle ∧ loaded.Legal := by decide

theorem witness_halt_reads : halted.phase = .halt ∧ halted.pins.rst = false := by decide

theorem witness_halt_illegal :
    ({ halted with host := [HostPins.present 0] } : State).pins.cmdValid = true ∧
    decodeCommand ({ halted with host := [HostPins.present 0] } : State).pins.cmd = .illegal ∧
    ({ halted with host := [HostPins.present 0] } : State).pins.rst = false := by decide

theorem witness_halt_next_state :
    halted.pins.rst = false ∧ ∃ s', step halted = .next s' := ⟨rfl, _, rfl⟩

theorem witness_busy_step :
    started.cmdReady = false ∧ (HostPins.present 0x1000000000).rst = HostPins.quiet.rst := by decide

theorem witness_busy_feed : feeding.cmdReady = false ∧ resetPins.rst = (⟨true, false, 0⟩ : HostPins).rst := by decide

theorem witness_step_f : started.phase = .step ∧ started.t = 0b00#2 ++ 0#4 := by decide

theorem witness_step_f_last :
    (stepping 15 ⟨1, 2, 3, 4⟩ 5).phase = .step ∧ (stepping 15 ⟨1, 2, 3, 4⟩ 5).t = 0b00#2 ++ 15#4 := by decide

theorem witness_step_g :
    (stepping 16 ⟨1, 2, 3, 4⟩ 5).phase = .step ∧ (stepping 16 ⟨1, 2, 3, 4⟩ 5).t = 0b01#2 ++ 0#4 := by decide

theorem witness_step_h :
    (stepping 32 ⟨1, 2, 3, 4⟩ 5).phase = .step ∧ (stepping 32 ⟨1, 2, 3, 4⟩ 5).t = 0b10#2 ++ 0#4 := by decide

theorem witness_step_i :
    (stepping 48 ⟨1, 2, 3, 4⟩ 5).phase = .step ∧ (stepping 48 ⟨1, 2, 3, 4⟩ 5).t = 0b11#2 ++ 0#4 := by decide

theorem witness_step_i_last :
    (stepping 63 ⟨1, 2, 3, 4⟩ 5).phase = .step ∧ (stepping 63 ⟨1, 2, 3, 4⟩ 5).t = 0b11#2 ++ 15#4 := by decide

theorem witness_init_frame :
    (∃ s', exec .init State.reset = .next s') ∧ ∃ s', exec .init halted = .next s' ∧ halted.phase ≠ .idle :=
  ⟨⟨_, rfl⟩, _, rfl, by decide⟩

theorem witness_ldw_frame :
    (∃ s', exec (.ldw 15 1) State.reset = .next s' ∧ 0 ≠ (15#4).toNat ∧ 0 < 16) ∧
    ∃ s', exec (.ldw 15 1) halted = .next s' ∧ halted.phase ≠ .idle :=
  ⟨⟨_, rfl, by decide⟩, _, rfl, by decide⟩

theorem witness_run_frame :
    (∃ s', exec .run loaded = .next s' ∧ loaded.mv = 0xffff) ∧
    (∃ s', exec .run State.reset = .next s' ∧ State.reset.mv ≠ 0xffff) ∧
    ∃ s', exec .run halted = .next s' ∧ halted.phase ≠ .idle :=
  ⟨⟨_, rfl, by decide⟩, ⟨_, rfl, by decide⟩, _, rfl, by decide⟩

theorem witness_reads_frame :
    (∃ s', exec .rds halted = .next s') ∧ ∃ s', ∃ j, exec (.rdd j) State.reset = .next s' :=
  ⟨⟨_, rfl⟩, _, 3, rfl⟩

theorem witness_micro_operation_frame :
    (∃ s', exec (.stepI 15) (stepping 63 initialAcc 0) = .next s') ∧ (∃ s', exec (.stepF 0) started = .next s') ∧
    (∃ s', exec (.stepG 0) State.reset = .next s') ∧ ∃ s', exec (.stepH 15) halted = .next s' :=
  ⟨⟨_, rfl⟩, ⟨_, rfl⟩, ⟨_, rfl⟩, _, rfl⟩

/-- Not selected: the wrong local step, the wrong round at the right local step, and a phase other than STEP. -/
theorem witness_unselected_micro_operation :
    (¬(started.phase = .step ∧ started.t = 0b00#2 ++ 5#4) ∧ ∃ s', exec (.stepF 5) started = .next s') ∧
    (¬(started.phase = .step ∧ started.t = 0b01#2 ++ 0#4) ∧ ∃ s', exec (.stepG 0) started = .next s') ∧
    (¬(started.phase = .step ∧ started.t = 0b10#2 ++ 0#4) ∧ ∃ s', exec (.stepH 0) started = .next s') ∧
    (¬(feeding.phase = .step ∧ feeding.t = 0b11#2 ++ 15#4) ∧ ∃ s', exec (.stepI 15) feeding = .next s') :=
  ⟨⟨by decide, _, rfl⟩, ⟨by decide, _, rfl⟩, ⟨by decide, _, rfl⟩, by decide, _, rfl⟩

theorem witness_bit_positions : (0 < 32 ∧ 31 < 32) ∧ (1 ≤ 1 ∧ 1 ≤ 31) ∧ (1 ≤ 31 ∧ 31 ≤ 31) := by decide

theorem witness_bytes_position : (0 < 4 ∧ 3 < 4) ∧ ∃ n m, m < n ∧ n = 8 ∧ m = 7 := ⟨by decide, 8, 7, by decide⟩

theorem witness_digest_text_positions :
    (0 < 4 ∧ 3 < 4) ∧ (0 < 16 ∧ 15 < 16) ∧ '0' ∈ digestText initialAcc := by decide

theorem witness_legal_step :
    (loaded.Legal ∧ ∃ s', step loaded = .next s') ∧ (feeding.Legal ∧ ∃ s', step feeding = .next s') ∧
    ({ started with t := 63 } : State).Legal ∧ ∃ s', step { started with t := 63 } = .next s' :=
  ⟨⟨by decide, _, rfl⟩, ⟨by decide, _, rfl⟩, by decide, _, rfl⟩

theorem witness_work_on_course_step :
    started.WorkOnCourse ∧ ∃ s', step started = .next s' :=
  ⟨⟨fun _ => rfl, fun h => absurd h (by decide)⟩, _, rfl⟩

theorem witness_work_on_course_feed :
    ({ feeding with work := workAfter feeding.acc feeding.msg 64 } : State).WorkOnCourse ∧
    ({ feeding with work := workAfter feeding.acc feeding.msg 64 } : State).phase = .feed :=
  ⟨⟨fun h => absurd h (by decide), fun _ => rfl⟩, rfl⟩

/-- The accumulator changes by INIT, by FEED and by RESET. -/
theorem witness_accumulator_writers :
    (given 0x1000000000 hashedEmpty).map (·.acc) ≠ some hashedEmpty.acc ∧
    (next? (step feeding)).map (·.acc) ≠ some feeding.acc ∧
    (next? (step { hashedEmpty with host := [resetPins] })).map (·.acc) ≠ some hashedEmpty.acc := by decide

/-- Bit 15 of MV is set by LDW 15, and cleared by FEED and by RESET. -/
theorem witness_buffer_writers :
    (State.reset.mv.getLsbD 15 = false ∧ (given 0x2f00000001 State.reset).map (·.mv.getLsbD 15) = some true) ∧
    (feeding.mv.getLsbD 15 = true ∧ (next? (step feeding)).map (·.mv.getLsbD 15) = some false) ∧
    (loaded.mv.getLsbD 0 = true ∧
      (next? (step { loaded with host := [resetPins] })).map (·.mv.getLsbD 0) = some false) := by decide

theorem witness_fcode_writers :
    (given 0 State.reset).map (·.fcode) = some 1 ∧ (given 0x3000000000 State.reset).map (·.fcode) = some 2 ∧
    (next? (step { halted with host := [resetPins] })).map (·.fcode) = some 0 := by decide

/-- What `select` answers in each case of ResponseStandsForOneTransition. -/
theorem witness_response_cases :
    (withHost [HostPins.present 0x4300000000]).select = .instr (.rdd 3) ∧
    (withHost [HostPins.present 0x5000000000]).select = .instr .rds ∧ (withHost []).select = .wait ∧
    feeding.select = .feed ∧ (withHost [resetPins]).select = .reset := by decide

theorem witness_run_compresses :
    ({ loaded with host := [HostPins.present 0x3000000000] } : State).phase = .idle ∧
    ({ loaded with host := [HostPins.present 0x3000000000] } : State).mv = 0xffff ∧
    ({ loaded with host := [HostPins.present 0x3000000000] } : State).pins.cmdValid = true ∧
    decodeCommand ({ loaded with host := [HostPins.present 0x3000000000] } : State).pins.cmd = .instr .run ∧
    ∀ n < 66, (({ loaded with host := [HostPins.present 0x3000000000] } : State).host.getD n HostPins.quiet).rst = false := by
  decide

/-- A command list with a RUN on an incomplete block, and one with a RUN that completes, from IDLE and from HALT. -/
theorem witness_levels_agree :
    ((withHost (pinsOfCommands [0x3000000000, 0x5000000000] ++ [])).phase = .idle ∧
      (withHost (pinsOfCommands [0x3000000000, 0x5000000000] ++ [])).host =
        pinsOfCommands [0x3000000000, 0x5000000000] ++ []) ∧
    (({ loaded with host := pinsOfCommands [0x3000000000, 0x4000000000] ++ [resetPins] } : State).phase = .idle ∧
      ({ loaded with host := pinsOfCommands [0x3000000000, 0x4000000000] ++ [resetPins] } : State).mv = 0xffff ∧
      decodeCommand 0x3000000000 = .instr .run ∧
      ({ loaded with host := pinsOfCommands [0x3000000000, 0x4000000000] ++ [resetPins] } : State).host =
        pinsOfCommands [0x3000000000, 0x4000000000] ++ [resetPins]) ∧
    (({ halted with host := pinsOfCommands [0x1000000000] ++ [] } : State).phase = .halt ∧
      ({ halted with host := pinsOfCommands [0x1000000000] ++ [] } : State).host =
        pinsOfCommands [0x1000000000] ++ []) := by
  decide

theorem witness_digest_protocol : hashedEmpty.phase = .idle := by decide

end Sys2Proof.Tests
end

section
/-! SUPPORT. The command level (00_scope.md R7) and the transitions agree: no meaning reads or writes the coming pin levels,
one command's pin levels take a ready engine to the command's end state with its response, and so does a list of commands. -/

namespace Sys2Proof.Machine

/-! ### The coming pin levels are the host's: no meaning reads or writes them -/

/-- s with the host's coming pin levels h. -/
def State.withHost (s : State) (h : List HostPins) : State := { s with host := h }

@[simp] theorem State.withHost_phase (s : State) (h : List HostPins) : (s.withHost h).phase = s.phase := rfl
@[simp] theorem State.withHost_t (s : State) (h : List HostPins) : (s.withHost h).t = s.t := rfl
@[simp] theorem State.withHost_tick (s : State) (p : HostPins) (h : List HostPins) :
    (s.withHost (p :: h)).tick = s.withHost h := rfl
@[simp] theorem State.withHost_response? (s : State) (h : List HostPins) : (s.withHost h).response? = s.response? := rfl

theorem State.accept_withHost (s : State) (h : List HostPins) {f g : State → State}
    (hf : ∀ s : State, f (s.withHost h) = (f s).withHost h) (hg : ∀ s : State, g (s.withHost h) = (g s).withHost h) :
    (s.withHost h).accept f g = (s.accept f g).withHost h := by
  unfold State.accept
  rw [State.withHost_phase]
  cases s.phase
  case idle => exact hf s
  case halt => exact hg s
  case step => rfl
  case feed => rfl

theorem State.stepTransition_withHost (s : State) (h : List HostPins) (fn : RoundFn) (i : BitVec 4) :
    (s.withHost h).stepTransition fn i = (s.stepTransition fn i).withHost h := by
  by_cases hs : s.phase = .step ∧ s.t = selector fn i
  · rw [s.stepTransition_enabled _ _ hs.1 hs.2, (s.withHost h).stepTransition_enabled _ _ hs.1 hs.2]
    rfl
  · rw [s.stepTransition_disabled _ _ hs, (s.withHost h).stepTransition_disabled _ _ hs]

theorem exec_withHost (i : Instr) (s : State) (h : List HostPins) :
    exec i (s.withHost h) = .next ((nextOr s (exec i s)).withHost h) := by
  cases i with
  | init => exact congrArg _ (s.accept_withHost h (fun _ => rfl) (fun _ => rfl))
  | ldw k v => exact congrArg _ (s.accept_withHost h (fun _ => rfl) (fun _ => rfl))
  | run =>
    have hidle (s : State) :=
      (apply_ite (State.withHost · h) (s.blockComplete = true) s.startRun (s.raiseFault blockIncomplete)).symm
    exact congrArg _ (s.accept_withHost h hidle (fun _ => rfl))
  | rdd j => exact congrArg _ (s.accept_withHost h (fun _ => rfl) (fun _ => rfl))
  | rds => exact congrArg _ (s.accept_withHost h (fun _ => rfl) (fun _ => rfl))
  | stepF i => exact congrArg _ (s.stepTransition_withHost h .F i)
  | stepG i => exact congrArg _ (s.stepTransition_withHost h .G i)
  | stepH i => exact congrArg _ (s.stepTransition_withHost h .H i)
  | stepI i => exact congrArg _ (s.stepTransition_withHost h .I i)

theorem State.illegalTransition_withHost (s : State) (h : List HostPins) :
    (s.withHost h).illegalTransition = s.illegalTransition.withHost h :=
  s.accept_withHost h (fun _ => rfl) (fun _ => rfl)

theorem State.acceptWord_of_instr (s : State) {c : CmdWord} {i : Instr} (hd : decodeCommand c = .instr i) :
    s.acceptWord c = nextOr s (exec i s) := by
  rw [State.acceptWord, hd]

theorem State.acceptWord_of_illegal (s : State) {c : CmdWord} (hd : decodeCommand c = .illegal) :
    s.acceptWord c = s.illegalTransition := by
  rw [State.acceptWord, hd]

theorem State.acceptWord_withHost (s : State) (h : List HostPins) (c : CmdWord) :
    (s.withHost h).acceptWord c = (s.acceptWord c).withHost h := by
  cases hd : decodeCommand c with
  | instr i => rw [State.acceptWord_of_instr _ hd, State.acceptWord_of_instr _ hd, exec_withHost, nextOr_next]
  | illegal =>
    rw [State.acceptWord_of_illegal _ hd, State.acceptWord_of_illegal _ hd, State.illegalTransition_withHost]

theorem State.runSteps_withHost (n : Nat) (s : State) (h : List HostPins) :
    (s.withHost h).runSteps n = (s.runSteps n).withHost h := by
  induction n generalizing s with
  | zero => rfl
  | succ n ih => rw [State.runSteps, State.runSteps, State.withHost_t, exec_withHost, nextOr_next, ih]

theorem State.finishRun_of_step {s : State} (hp : s.phase = .step) : s.finishRun = (s.runSteps 64).feedTransition := by
  rw [State.finishRun, hp]

/-- A ready engine has no RUN to finish. -/
theorem State.finishRun_of_ready {s : State} (hp : s.phase = .idle ∨ s.phase = .halt) : s.finishRun = s := by
  rcases hp with hp | hp <;> rw [State.finishRun, hp]

theorem State.finishRun_withHost (s : State) (h : List HostPins) :
    (s.withHost h).finishRun = s.finishRun.withHost h := by
  unfold State.finishRun
  rw [State.withHost_phase]
  cases s.phase
  case step => exact congrArg State.feedTransition (State.runSteps_withHost 64 s h)
  all_goals rfl

/-- A command's end state and response do not depend on the coming pin levels. -/
theorem State.command_withHost (s : State) (h : List HostPins) (c : CmdWord) :
    (s.withHost h).command c = ((s.command c).1.withHost h, (s.command c).2) := by
  simp only [State.command, State.acceptWord_withHost, State.finishRun_withHost, State.withHost_response?]

/-! ### One transition, by phase and pin levels -/

section transition

variable {s : State} (h : List HostPins)

/-- A ready engine accepts the word the host presents (R33). -/
theorem step_present (c : CmdWord) (hp : s.phase = .idle ∨ s.phase = .halt) :
    step (s.withHost (HostPins.present c :: h)) = .next ((s.acceptWord c).withHost h) := by
  have hs : (s.withHost (HostPins.present c :: h)).select = Selected.ofDecoded (decodeCommand c) :=
    State.select_ready _ rfl hp
  rw [step, hs, State.withHost_tick]
  cases hd : decodeCommand c with
  | instr i => rw [State.acceptWord_of_instr _ hd]; exact exec_withHost i s h
  | illegal => rw [State.acceptWord_of_illegal _ hd]; exact congrArg _ (s.illegalTransition_withHost h)

/-- A ready engine to which nothing is presented waits (R15). -/
theorem step_quiet_of_ready (hp : s.phase = .idle ∨ s.phase = .halt) :
    step (s.withHost (HostPins.quiet :: h)) = .next (s.clearResponse.withHost h) := by
  have hs : (s.withHost (HostPins.quiet :: h)).select = .wait := State.select_ready _ rfl hp
  rw [step, hs]
  rfl

/-- In phase STEP the engine performs the micro-operation t selects (R81). -/
theorem step_quiet_of_step (hp : s.phase = .step) :
    step (s.withHost (HostPins.quiet :: h)) = .next ((nextOr s (exec (decodeSelector s.t) s)).withHost h) := by
  have hs : (s.withHost (HostPins.quiet :: h)).select = .instr (decodeSelector s.t) := State.select_step _ rfl hp
  rw [step, hs]
  exact exec_withHost _ s h

theorem step_quiet_of_feed (hp : s.phase = .feed) :
    step (s.withHost (HostPins.quiet :: h)) = .next (s.feedTransition.withHost h) := by
  have hs : (s.withHost (HostPins.quiet :: h)).select = .feed := State.select_feed _ rfl hp
  rw [step, hs]
  rfl

end transition

/-! ### Observed transitions -/

theorem State.observe_succ_of_step {s s' : State} (n : Nat) (h : step s = .next s') :
    State.observe (n + 1) s = ((State.observe n s').1, s'.response?.toList ++ (State.observe n s').2) := by
  rw [State.observe, h, nextOr_next]

/-- A transition that leaves no response adds nothing to the responses seen. -/
theorem State.observe_succ_of_silent {s s' : State} (n : Nat) (h : step s = .next s') (hr : s'.rspv = false) :
    State.observe (n + 1) s = State.observe n s' := by
  simp [State.observe_succ_of_step n h, State.response?, hr]

/-- m + n transitions, of which the first m are known. -/
theorem State.observe_add (m n : Nat) (s : State) :
    State.observe (m + n) s =
      ((State.observe n (State.observe m s).1).1, (State.observe m s).2 ++ (State.observe n (State.observe m s).1).2) := by
  induction m generalizing s with
  | zero => simp [State.observe]
  | succ m ih => simp only [Nat.succ_add, State.observe, ih, List.append_assoc]

/-- A ready engine without a response stays as it is while the host presents nothing. -/
theorem State.observe_quiet_of_ready (n : Nat) {s : State} (h : List HostPins)
    (hp : s.phase = .idle ∨ s.phase = .halt) (hc : s.clearResponse = s) :
    State.observe n (s.withHost (List.replicate n HostPins.quiet ++ h)) = (s.withHost h, []) := by
  induction n with
  | zero => rfl
  | succ n ih =>
    have hr : s.rspv = false := by rw [← hc, State.clearResponse_rspv]
    have hstep := step_quiet_of_ready (List.replicate n HostPins.quiet ++ h) hp
    rw [hc] at hstep
    exact (State.observe_succ_of_silent n hstep hr).trans ih

/-- The n steps a RUN still has to do, and its FEED, observed: nothing is seen, and the engine ends where the command level
says (R81, R82). With no step left the phase is FEED. -/
theorem State.observe_quiet_of_running (n : Nat) (s : State) (h : List HostPins)
    (hp : s.phase = if n = 0 then .feed else .step) (ht : 0 < n → s.t.toNat + n = 64) :
    State.observe (n + 1) (s.withHost (List.replicate (n + 1) HostPins.quiet ++ h)) =
      ((s.runSteps n).feedTransition.withHost h, []) := by
  induction n generalizing s with
  | zero => exact State.observe_succ_of_silent 0 (step_quiet_of_feed h hp) rfl
  | succ n ih =>
    have hp' : s.phase = .step := hp
    have htn : s.t.toNat + (n + 1) = 64 := ht n.succ_pos
    have hlast : s.t = 63 ↔ n = 0 := by bv_omega
    have hx := exec_decodeSelector_step s s rfl hp'
    have hstep := step_quiet_of_step (List.replicate (n + 1) HostPins.quiet ++ h) hp'
    rw [State.runSteps]
    rw [hx, nextOr_next] at hstep ⊢
    refine (State.observe_succ_of_silent _ hstep rfl).trans (ih _ ?_ ?_)
    · simp only [hlast]
    · intro hn
      have hne : s.t ≠ 63 := fun h63 => hn.ne' (hlast.1 h63)
      simp only [if_neg hne]
      bv_omega

/-! ### One command, and a list of commands -/

/-- RUN given to a ready engine starts the steps, or leaves the engine ready without a response (R79, R80, R93). -/
theorem State.acceptWord_run_cases {s : State} {c : CmdWord} (hd : decodeCommand c = .instr .run)
    (hp : s.phase = .idle ∨ s.phase = .halt) :
    s.acceptWord c = s.startRun ∨
      (((s.acceptWord c).phase = .idle ∨ (s.acceptWord c).phase = .halt) ∧
        (s.acceptWord c).clearResponse = s.acceptWord c) := by
  rw [State.acceptWord_of_instr s hd]
  rcases exec_command_cases hp rfl (exec_eq_nextOr .run s) with
    ⟨hi, -⟩ | ⟨_, _, hi, -⟩ | ⟨-, -, -, hs⟩ | ⟨-, -, -, hs⟩ | ⟨_, hi, -⟩ | ⟨hi, -⟩ | ⟨-, -, hs⟩
  · cases hi
  · cases hi
  · exact .inl hs
  · rw [hs]
    exact .inr ⟨.inr rfl, rfl⟩
  · cases hi
  · cases hi
  · rw [hs]
    exact .inr ⟨hp, rfl⟩

/-- Every other word leaves a ready engine ready (R93). -/
theorem State.acceptWord_ready_of_ne_run {s : State} {c : CmdWord} (hd : decodeCommand c ≠ .instr .run)
    (hp : s.phase = .idle ∨ s.phase = .halt) : (s.acceptWord c).phase = .idle ∨ (s.acceptWord c).phase = .halt := by
  cases hc : decodeCommand c with
  | illegal =>
    rw [State.acceptWord_of_illegal s hc]
    rcases illegalTransition_cases hp with ⟨-, hs⟩ | ⟨-, hs⟩ <;> rw [hs]
    · exact .inr rfl
    · exact hp
  | instr i =>
    have hi : i ≠ .run := fun h => hd (h ▸ hc)
    rw [State.acceptWord_of_instr s hc]
    rcases exec_command_cases hp (decodeCommand_isCommand c i hc) (exec_eq_nextOr i s) with
      ⟨-, -, hs⟩ | ⟨_, _, -, -, hs⟩ | ⟨h, -⟩ | ⟨h, -⟩ | ⟨_, -, hs⟩ | ⟨-, hs⟩ | ⟨-, -, hs⟩
    case inr.inr.inl => exact absurd h hi
    case inr.inr.inr.inl => exact absurd h hi
    all_goals rw [hs]; exact hp

/-- After acceptance, the transition times without a command that a RUN gets: the engine finishes a started RUN and answers
nothing more, and it is ready again (R7). -/
theorem State.observe_finishRun {s : State} (c : CmdWord) (h : List HostPins) (hp : s.phase = .idle ∨ s.phase = .halt) :
    State.observe (pinsOfCommand c).tail.length ((s.acceptWord c).withHost ((pinsOfCommand c).tail ++ h)) =
        ((s.acceptWord c).finishRun.withHost h, []) ∧
      ((s.acceptWord c).finishRun.phase = .idle ∨ (s.acceptWord c).finishRun.phase = .halt) := by
  by_cases hd : decodeCommand c = .instr .run
  · have htail : (pinsOfCommand c).tail = List.replicate 65 HostPins.quiet := if_pos hd
    rw [htail, List.length_replicate]
    rcases State.acceptWord_run_cases hd hp with hs | ⟨hp', hc⟩
    · rw [hs, State.finishRun_of_step s.startRun_phase]
      exact ⟨State.observe_quiet_of_running 64 s.startRun h rfl (fun _ => rfl), .inl rfl⟩
    · rw [State.finishRun_of_ready hp']
      exact ⟨State.observe_quiet_of_ready 65 h hp' hc, hp'⟩
  · have htail : (pinsOfCommand c).tail = [] := if_neg hd
    have hp' := State.acceptWord_ready_of_ne_run hd hp
    rw [htail, State.finishRun_of_ready hp']
    exact ⟨rfl, hp'⟩

/-- One command put on the pins of a ready engine does by transitions what the command level says, and leaves the engine
ready for the next (R7, R140). -/
theorem State.observe_command {s : State} (c : CmdWord) (h : List HostPins) (hp : s.phase = .idle ∨ s.phase = .halt) :
    State.observe (pinsOfCommand c).length (s.withHost (pinsOfCommand c ++ h)) =
        ((s.command c).1.withHost h, (s.command c).2.toList) ∧
      ((s.command c).1.phase = .idle ∨ (s.command c).1.phase = .halt) := by
  obtain ⟨hobs, hready⟩ := State.observe_finishRun c h hp
  refine ⟨?_, hready⟩
  have hstep := step_present ((pinsOfCommand c).tail ++ h) c hp
  calc State.observe (pinsOfCommand c).length (s.withHost (pinsOfCommand c ++ h))
      = _ := State.observe_succ_of_step (pinsOfCommand c).tail.length hstep
    _ = ((s.acceptWord c).finishRun.withHost h, (s.acceptWord c).response?.toList) := by
      rw [hobs, State.withHost_response?, List.append_nil]

theorem State.observe_commands (cs : List CmdWord) {s : State} (h : List HostPins)
    (hp : s.phase = .idle ∨ s.phase = .halt) :
    State.observe (pinsOfCommands cs).length (s.withHost (pinsOfCommands cs ++ h)) = State.commands cs (s.withHost h) := by
  induction cs generalizing s with
  | nil => rfl
  | cons c cs ih =>
    obtain ⟨hobs, hready⟩ := State.observe_command c (pinsOfCommands cs ++ h) hp
    have hpins : pinsOfCommands (c :: cs) = pinsOfCommand c ++ pinsOfCommands cs := List.flatMap_cons
    rw [hpins, List.append_assoc, List.length_append, State.observe_add, hobs, State.commands, State.command_withHost,
      ih hready]

/-- Settles O53, by induction on the list of commands: each command's pin levels take a ready engine to the command's end
state with its response, ready for the next command. -/
theorem commandLevelAgreesWithTransitions : Obligations.CommandLevelAgreesWithTransitions := by
  intro cs rest s hp hhost
  have hs : s = s.withHost (pinsOfCommands cs ++ rest) := by rw [← hhost]; rfl
  calc State.observe (pinsOfCommands cs).length s
      = State.observe (pinsOfCommands cs).length (s.withHost (pinsOfCommands cs ++ rest)) := by rw [← hs]
    _ = State.commands cs { s with host := rest } := State.observe_commands cs rest hp

end Sys2Proof.Machine
end

section
/-! SUPPORT. What every transition keeps and which transition writes what (10_state.md): the rows of R15 as one relation, and
from it the legality of every reachable state and the writers of each register. -/

namespace Sys2Proof.Machine

/-! ### The rows of R15 -/

/-- One transition of the engine as a relation, a constructor per row of R15, with what selects the row and the phase it needs. -/
inductive Transition (s : State) : State → Prop
  | reset (hsel : s.select = .reset) : Transition s s.tick.resetEngine
  | step (hsel : s.select = .instr (decodeSelector s.t)) (hp : s.phase = .step) :
      Transition s { s with
        host := s.host.tail
        work := stepAt s.t s.work s.msg
        phase := if s.t = 63 then .feed else .step
        t := if s.t = 63 then s.t else s.t + 1
        rspv := false
        rsp := 0 }
  | feed (hsel : s.select = .feed) (hp : s.phase = .feed) : Transition s s.tick.feedTransition
  | init (hsel : s.select = .instr .init) (hp : s.phase = .idle) :
      Transition s (State.clearResponse { s.tick with acc := initialAcc })
  | ldw (k : BitVec 4) (v : Word) (hsel : s.select = .instr (.ldw k v)) (hp : s.phase = .idle) :
      Transition s ((s.tick.setMsgWord k v).setValid k).clearResponse
  | run (hsel : s.select = .instr .run) (hp : s.phase = .idle) (hmv : s.mv = 0xffff) : Transition s s.tick.startRun
  | runIncomplete (hsel : s.select = .instr .run) (hp : s.phase = .idle) (hmv : s.mv ≠ 0xffff) :
      Transition s (s.tick.raiseFault blockIncomplete)
  | illegal (hsel : s.select = .illegal) (hp : s.phase = .idle) : Transition s (s.tick.raiseFault illegalCmd)
  | rdd (j : BitVec 2) (hsel : s.select = .instr (.rdd j)) (hp : s.phase = .idle ∨ s.phase = .halt) :
      Transition s (s.tick.respond (s.accWord j))
  | rds (hsel : s.select = .instr .rds) (hp : s.phase = .idle ∨ s.phase = .halt) :
      Transition s (s.tick.respond s.status)
  | discard (hsel : s.select = .instr .init ∨ (∃ k v, s.select = .instr (.ldw k v)) ∨ s.select = .instr .run ∨
        s.select = .illegal) (hp : s.phase = .halt) : Transition s s.tick.clearResponse
  | wait (hsel : s.select = .wait) (hp : s.phase = .idle ∨ s.phase = .halt) : Transition s s.tick.clearResponse

/-- The row of an accepted command (R89 to R93, R79, R80). -/
theorem Transition.of_exec {s s' : State} {i : Instr} (hsel : s.select = .instr i) (hc : i.isCommand = true)
    (hp : s.phase = .idle ∨ s.phase = .halt) (h : exec i s.tick = .next s') : Transition s s' := by
  rcases exec_command_cases (s := s.tick) hp hc h with
    ⟨rfl, hi, rfl⟩ | ⟨k, v, rfl, hi, rfl⟩ | ⟨rfl, hi, hm, rfl⟩ | ⟨rfl, hi, hm, rfl⟩ | ⟨j, rfl, rfl⟩ | ⟨rfl, rfl⟩ |
      ⟨hh, hd, rfl⟩
  · exact .init hsel hi
  · exact .ldw k v hsel hi
  · exact .run hsel hi hm
  · exact .runIncomplete hsel hi hm
  · exact .rdd j hsel hp
  · exact .rds hsel hp
  · refine .discard ?_ hh
    rcases hd with rfl | ⟨k, v, rfl⟩ | rfl
    · exact .inl hsel
    · exact .inr (.inl ⟨k, v, hsel⟩)
    · exact .inr (.inr (.inl hsel))

/-- Every step is one of the rows. -/
theorem Transition.of_step {s s' : State} (h : Machine.step s = .next s') : Transition s s' := by
  rcases step_cases h with ⟨hsel, -, rfl⟩ | ⟨hsel, -, hp, rfl⟩ | ⟨hsel, -, hp, rfl⟩ |
    ⟨hp, -, ⟨i, hsel, hc, -, -, hx⟩ | ⟨hsel, -, -, rfl⟩ | ⟨hsel, -, rfl⟩⟩
  · exact .reset hsel
  · exact .step hsel hp
  · exact .feed hsel hp
  · exact .of_exec hsel hc hp hx
  · rcases illegalTransition_cases (s := s.tick) hp with ⟨hi, hs⟩ | ⟨hh, hs⟩ <;> rw [hs]
    · exact .illegal hsel hi
    · exact .discard (.inr (.inr (.inr hsel))) hh
  · exact .wait hsel hp

/-! ### Legal states -/

/-- Settles O43: every register of the reset state is a literal. -/
theorem resetIsLegal : Obligations.ResetIsLegal := by
  unfold Obligations.ResetIsLegal
  decide

/-- A ready engine stays legal when phase, FCODE and t keep their values and no stale response is left. -/
theorem State.Legal.of_ready {s s' : State} (hs : s.Legal) (hp : s.phase = .idle ∨ s.phase = .halt)
    (hphase : s'.phase = s.phase) (hfcode : s'.fcode = s.fcode) (ht : s'.t = s.t) (hrsp : s'.rspv = false → s'.rsp = 0) :
    s'.Legal := by
  obtain ⟨hhalt, hcode, -, -, hidle, -, -⟩ := hs
  have hbusy : ¬(s'.phase = .step ∨ s'.phase = .feed) := by
    rw [hphase]
    rcases hp with hp | hp <;> simp [hp]
  refine ⟨?_, ?_, fun h => absurd h hbusy, fun h => absurd (.inr h) hbusy, ?_, hrsp, fun h => absurd h hbusy⟩
  · rw [hphase, hfcode]; exact hhalt
  · rw [hfcode]; exact hcode
  · rw [hphase, ht]; exact hidle

/-- Fault entry with either code of R106 leads to a legal state from everywhere (R118). -/
theorem State.raiseFault_legal (s : State) {code : BitVec 4} (hc : code = 1 ∨ code = 2) : (s.raiseFault code).Legal := by
  rcases hc with rfl | rfl <;> simp [State.Legal]

/-- Outside HALT a legal state has no fault recorded (R14). -/
theorem State.Legal.fcode_eq_zero {s : State} (hs : s.Legal) (hp : s.phase ≠ .halt) : s.fcode = 0 := by
  obtain ⟨hhalt, -⟩ := hs
  exact not_not.1 fun hf => hp (hhalt.2 hf)

theorem Transition.legal {s s' : State} (hs : s.Legal) (h : Transition s s') : s'.Legal := by
  cases h with
  | reset hsel => exact resetIsLegal
  | step hsel hp =>
    have hf := hs.fcode_eq_zero (by simp [hp])
    obtain ⟨-, -, hmv, -⟩ := hs
    have hmv := hmv (.inl hp)
    by_cases ht : s.t = 63
    · simp [State.Legal, ht, hf, hmv]
    · simp only [State.Legal, if_neg ht]
      simp [hf, hmv]
  | feed hsel hp => simp [State.Legal, hs.fcode_eq_zero (by simp [hp])]
  | init hsel hp => exact hs.of_ready (.inl hp) rfl rfl rfl fun _ => rfl
  | ldw k v hsel hp => exact hs.of_ready (.inl hp) rfl rfl rfl fun _ => rfl
  | run hsel hp hmv => simp [State.Legal, hs.fcode_eq_zero (by simp [hp]), hmv]
  | runIncomplete hsel hp hmv => exact s.tick.raiseFault_legal (.inr rfl)
  | illegal hsel hp => exact s.tick.raiseFault_legal (.inl rfl)
  | rdd j hsel hp => exact hs.of_ready hp rfl rfl rfl (by simp)
  | rds hsel hp => exact hs.of_ready hp rfl rfl rfl (by simp)
  | discard hsel hp => exact hs.of_ready (.inr hp) rfl rfl rfl fun _ => rfl
  | wait hsel hp => exact hs.of_ready hp rfl rfl rfl fun _ => rfl

/-- Settles O44, row by row of R15: the rows of a ready engine keep phase, FCODE and t or record a fault; STEP, FEED and the
start of a RUN happen with no fault recorded. -/
theorem legalStatesStayLegal : Obligations.LegalStatesStayLegal := fun _ _ hs h => (Transition.of_step h).legal hs

/-- Settles O46: every choice of the next transition is performed, and every meaning answers a next state. -/
theorem everyStateHasATransition : Obligations.EveryStateHasATransition := by
  intro s
  unfold step
  cases s.select with
  | instr i => exact exec_next i s.tick
  | reset => exact ⟨_, rfl⟩
  | illegal => exact ⟨_, rfl⟩
  | feed => exact ⟨_, rfl⟩
  | wait => exact ⟨_, rfl⟩

/-! ### Who writes which register -/

/-- Settles O47: of the rows of R15 only RESET, FEED and INIT in IDLE write the accumulator. -/
theorem onlyResetInitAndFeedWriteTheAccumulator : Obligations.OnlyResetInitAndFeedWriteTheAccumulator := by
  intro s s' h
  cases Transition.of_step h with
  | reset hsel => exact .inr (.inl ⟨.inl hsel, rfl⟩)
  | feed hsel hp => exact .inr (.inr ⟨hsel, addQuad_eq s.acc s.work⟩)
  | init hsel hp => exact .inr (.inl ⟨.inr ⟨hsel, hp⟩, rfl⟩)
  | _ => exact .inl rfl

/-- What a transition does to the message registers and their valid bits (R11, R12). -/
theorem Transition.buffer_cases {s s' : State} (h : Transition s s') :
    (s.select = .reset ∧ s'.mv = 0) ∨
      (s.select = .feed ∧ s'.msg = s.msg ∧ s'.mv = 0) ∨
      (∃ k v, s.select = .instr (.ldw k v) ∧ s.phase = .idle ∧ s'.msg = s.msg.set k.toNat v ∧
        s'.mv = s.mv ||| BitVec.twoPow 16 k.toNat) ∨
      (s'.msg = s.msg ∧ s'.mv = s.mv) := by
  cases h with
  | reset hsel => exact .inl ⟨hsel, rfl⟩
  | feed hsel hp => exact .inr (.inl ⟨hsel, rfl, rfl⟩)
  | ldw k v hsel hp => exact .inr (.inr (.inl ⟨k, v, hsel, hp, rfl, rfl⟩))
  | _ => exact .inr (.inr (.inr ⟨rfl, rfl⟩))

/-- Settles O48: RESET and FEED clear MV, LDW k writes M[k] and sets bit k, and no other row of R15 touches the buffer. -/
theorem onlyLdwFeedAndResetWriteTheBuffer : Obligations.OnlyLdwFeedAndResetWriteTheBuffer := by
  intro s s' n hn h
  rcases (Transition.of_step h).buffer_cases with
    ⟨hsel, hmv⟩ | ⟨hsel, hmsg, hmv⟩ | ⟨k, v, hsel, hp, hmsg, hmv⟩ | ⟨hmsg, hmv⟩
  · simp [hsel, hmv]
  · simp [hsel, hmsg, hmv]
  · by_cases hk : k.toNat = n
    · subst hk
      exact ⟨.inr (.inr ⟨k, v, hsel, hp, rfl, by simp [hmsg]⟩), fun _ _ => ⟨k, v, hsel, hp, rfl⟩,
        by simp +contextual [hmv]⟩
    · simp +contextual [hmsg, hmv, hk]
  · simp +contextual [hmsg, hmv]

/-- Settles O49: besides RESET only the two rows of fault entry write FCODE, both at an acceptance in IDLE. -/
theorem onlyResetAndAcceptanceInIdleWriteFcode : Obligations.OnlyResetAndAcceptanceInIdleWriteFcode := by
  intro s s' h
  cases Transition.of_step h with
  | reset hsel => exact .inr (.inl ⟨hsel, rfl⟩)
  | runIncomplete hsel hp hmv => exact .inr (.inr ⟨hp, rfl, .inr ⟨hsel, hmv, rfl⟩⟩)
  | illegal hsel hp => exact .inr (.inr ⟨hp, rfl, .inl ⟨hsel, rfl⟩⟩)
  | _ => exact .inl rfl

/-- `ACC[j]` as entry j of the list of accumulator words (R24). -/
theorem State.accWord_eq_getD (s : State) (j : BitVec 2) :
    s.accWord j = [s.acc.a, s.acc.b, s.acc.c, s.acc.d].getD j.toNat 0 := by
  have hj : j = 0 ∨ j = 1 ∨ j = 2 ∨ j = 3 := by
    revert j
    decide
  rcases hj with rfl | rfl | rfl | rfl <;> rfl

/-- A value of t selects one of the four micro-operations (R39). -/
theorem decodeSelector_cases (t : StepIndex) :
    ∃ i, decodeSelector t = .stepF i ∨ decodeSelector t = .stepG i ∨ decodeSelector t = .stepH i ∨
      decodeSelector t = .stepI i := by
  refine ⟨localStep t, ?_⟩
  unfold decodeSelector
  cases RoundFn.ofNumber (roundNumber t) <;> simp

/-- Settles O51: of the rows of R15 only RDD and RDS respond, and every other one clears the response register. -/
theorem responseStandsForOneTransition : Obligations.ResponseStandsForOneTransition := by
  intro s s' h
  cases Transition.of_step h with
  | rdd j hsel hp => rw [hsel]; exact ⟨rfl, s.accWord_eq_getD j⟩
  | step hsel hp =>
    obtain ⟨i, hi | hi | hi | hi⟩ := decodeSelector_cases s.t <;> rw [hsel, hi] <;> exact ⟨rfl, rfl⟩
  | discard hsel hp =>
    rcases hsel with hsel | ⟨k, v, hsel⟩ | hsel | hsel <;> rw [hsel] <;> exact ⟨rfl, rfl⟩
  | reset hsel | feed hsel _ | init hsel _ | ldw _ _ hsel _ | run hsel _ _ | runIncomplete hsel _ _ | illegal hsel _
  | rds hsel _ | wait hsel _ => rw [hsel]; exact ⟨rfl, rfl⟩

/-! ### One transition, by what selects it -/

theorem State.pins_of_host {s : State} {p : HostPins} {rest : List HostPins} (h : s.host = p :: rest) : s.pins = p := by
  rw [State.pins, h, List.headD_cons]

theorem step_of_select_instr {s : State} {i : Instr} (h : s.select = .instr i) : step s = exec i s.tick := by
  rw [step, h]

/-- Settles O8: in IDLE and HALT the command port selects the instruction, in STEP the counter t does (R33, R81). -/
theorem stepRunsTheDecodedInstruction : Obligations.StepRunsTheDecodedInstruction := by
  refine ⟨fun s p rest i hhost hp hrst hvalid hd => ?_, fun s i hp hrst hd => ?_⟩
  · have hpins := State.pins_of_host hhost
    have hsel : s.select = .instr i := by
      rw [s.select_ready (by rw [hpins, hrst]) hp, hpins, HostPins.selectCommand, if_pos hvalid, hd, Selected.ofDecoded]
    rw [step_of_select_instr hsel, State.tick, hhost, List.tail_cons]
  · rw [step_of_select_instr (s.select_step hrst hp), hd, State.tick]

/-- STATUS right after RESET: MV and FCODE are 0 (R17, R21). -/
@[simp] theorem State.resetEngine_status (s : State) : s.resetEngine.status = 0 := by
  simp [State.status, State.reset]

/-- Settles O9: `rst` comes first in the choice of the next transition, whatever the phase and the command pins (R114). -/
theorem resetWritesEveryRegister : Obligations.ResetWritesEveryRegister := by
  intro s hrst
  refine ⟨s.tick.resetEngine, ?_, rfl, s.tick.resetEngine_status, rfl, rfl, rfl, rfl, rfl⟩
  rw [step, s.select_reset hrst]

/-- Settles O10: State.reset is this state. -/
theorem resetStateHoldsTheSpecsValues : Obligations.ResetStateHoldsTheSpecsValues := rfl

/-- Settles O13: with no command presented a ready engine takes the WAIT transition. -/
theorem waitOnlyClearsTheResponse : Obligations.WaitOnlyClearsTheResponse := by
  intro s hp hrst hvalid
  have hsel : s.select = .wait := by
    rw [s.select_ready hrst hp, HostPins.selectCommand, hvalid, if_neg Bool.false_ne_true]
  rw [step, hsel]
  rfl

/-! ### The output pins -/

theorem State.busy_iff (s : State) : s.busy = true ↔ s.phase = .step ∨ s.phase = .feed := by
  unfold State.busy
  cases s.phase <;> simp

/-- Settles O42: `busy` by the four phases, `fault` by FCODE, the other pins by definition. -/
theorem outputPinsShowThePhase : Obligations.OutputPinsShowThePhase := fun s =>
  ⟨s.busy_iff, rfl, bne_iff_ne, rfl, rfl⟩

end Sys2Proof.Machine
end

section
/-! SUPPORT. The digest as bytes and text (20_memory.md R26, 46_digest_protocol.md R98, R99): both are the concatenation of
pieces of one length, so position k * j + n is position n of piece j. -/

namespace Sys2Proof.Machine

/-! ### Concatenation of pieces of one length -/

theorem getElem?_flatMap_of_forall_length_eq {α β : Type} {f : α → List β} {k n : Nat} (hf : ∀ x, (f x).length = k)
    (hn : n < k) (l : List α) (j : Nat) : (l.flatMap f)[k * j + n]? = l[j]?.bind fun x => (f x)[n]? := by
  induction l generalizing j with
  | nil => simp
  | cons x xs ih =>
    rw [List.flatMap_cons]
    cases j with
    | zero => simp [List.getElem?_append_left, hf, hn]
    | succ j =>
      have hpos : k * (j + 1) + n = (f x).length + (k * j + n) := by rw [hf]; ring
      rw [hpos, List.getElem?_append_right (Nat.le_add_right _ _), Nat.add_sub_cancel_left, ih, List.getElem?_cons_succ]

/-! ### The digest bytes -/

@[simp] theorem leBytes_length (n : Nat) (x : BitVec (8 * n)) : (leBytes n x).length = n := by simp [leBytes]

/-- Byte m of a word is its bits 8m+7..8m (R49). -/
theorem leBytes_getElem? {n m : Nat} (x : BitVec (8 * n)) (hm : m < n) :
    (leBytes n x)[m]? = some (x.extractLsb' (8 * m) 8) := by
  rw [leBytes, List.getElem?_map, List.getElem?_range hm]
  rfl

theorem digestBytes_eq_flatMap (w : Quad) : digestBytes w = [w.a, w.b, w.c, w.d].flatMap (leBytes 4) := by
  simp [digestBytes]

@[simp] theorem digestBytes_length (w : Quad) : (digestBytes w).length = 16 := by simp [digestBytes]

theorem digestBytes_getD (w : Quad) {j n : Nat} (hj : j < 4) (hn : n < 4) :
    (digestBytes w).getD (4 * j + n) 0 = ([w.a, w.b, w.c, w.d].getD j 0).extractLsb' (8 * n) 8 := by
  have hword : [w.a, w.b, w.c, w.d][j]? = some ([w.a, w.b, w.c, w.d].getD j 0) := by
    rw [List.getD_eq_getElem _ _ hj, List.getElem?_eq_getElem hj]
  rw [List.getD_eq_getElem?_getD, digestBytes_eq_flatMap, getElem?_flatMap_of_forall_length_eq (leBytes_length 4) hn,
    hword, Option.bind_some, leBytes_getElem? _ hn, Option.getD_some]

/-! ### The digest text -/

theorem hexByte_length (q : Byte) : (hexByte q).length = 2 := rfl

/-- The digit characters for the numbers below 16 are the lowercase hexadecimal digits, in order. -/
theorem getElem?_hexDigits {x : Nat} (hx : x < 16) : "0123456789abcdef".toList[x]? = some (Nat.digitChar x) := by
  revert x
  decide

theorem digitChar_mem_hexDigits {x : Nat} (hx : x < 16) : Nat.digitChar x ∈ "0123456789abcdef".toList :=
  List.mem_of_getElem? (getElem?_hexDigits hx)

theorem highDigit_lt (q : Byte) : q.toNat / 16 < 16 := by omega

theorem lowDigit_lt (q : Byte) : q.toNat % 16 < 16 := Nat.mod_lt _ (by decide)

theorem mem_hexDigits_of_mem_hexByte {q : Byte} {ch : Char} (h : ch ∈ hexByte q) :
    ch ∈ "0123456789abcdef".toList := by
  rw [hexByte, List.mem_pair] at h
  rcases h with rfl | rfl
  · exact digitChar_mem_hexDigits (highDigit_lt q)
  · exact digitChar_mem_hexDigits (lowDigit_lt q)

theorem digestText_length (w : Quad) : (digestText w).length = 32 := by
  simp [digestText, List.length_flatMap, hexByte_length]

/-- Characters 2m and 2m + 1 of the text are the two characters of digest byte m (R99). -/
theorem digestText_getElem? (w : Quad) {m n : Nat} (hm : m < 16) (hn : n < 2) :
    (digestText w)[2 * m + n]? = (hexByte ((digestBytes w).getD m 0))[n]? := by
  have hm' : m < (digestBytes w).length := by rwa [digestBytes_length]
  rw [digestText, getElem?_flatMap_of_forall_length_eq hexByte_length hn, List.getElem?_eq_getElem hm',
    Option.bind_some, List.getD_eq_getElem _ _ hm']

/-- Settles O41: word by word for the bytes, byte by byte for the text. -/
theorem digestTextIsLowercaseHex : Obligations.DigestTextIsLowercaseHex := by
  intro w
  refine ⟨digestBytes_length w, fun j n hj hn => digestBytes_getD w hj hn, digestText_length w, fun ch hch => ?_,
    fun m hm => ⟨?_, ?_⟩⟩
  · obtain ⟨q, -, hq⟩ := List.mem_flatMap.1 hch
    exact mem_hexDigits_of_mem_hexByte hq
  · rw [getElem?_hexDigits (highDigit_lt _)]
    exact digestText_getElem? w hm (n := 0) (by decide)
  · rw [getElem?_hexDigits (lowDigit_lt _)]
    exact digestText_getElem? w hm (n := 1) (by decide)

end Sys2Proof.Machine
end

section
/-! SUPPORT. The codes (30_encoding.md): a command word decodes to an instruction exactly if it is the instruction's code, and
so does a step selector; from this the mask and match rows and the round that t selects. -/

namespace Sys2Proof

/-! ### Command words by their fields -/

/-- A word is put together from given fields exactly if these are its fields (R34). -/
theorem cmdWord_eq_iff {op idx : BitVec 4} {data : Word} {c : CmdWord} :
    cmdWord op idx data = c ↔ cmdOp c = op ∧ cmdIdx c = idx ∧ cmdData c = data := by
  constructor
  · rintro rfl
    simp
  · rintro ⟨rfl, rfl, rfl⟩
    exact cmdWord_fields c

/-- A mask and match row tests each field (R35). -/
theorem and_cmdWord_eq_iff {mop midx op idx : BitVec 4} {mdata data : Word} {c : CmdWord} :
    c &&& cmdWord mop midx mdata = cmdWord op idx data ↔
      cmdOp c &&& mop = op ∧ cmdIdx c &&& midx = idx ∧ cmdData c &&& mdata = data := by
  rw [← cmdWord_inj, ← cmdWord_and, cmdWord_fields]

theorem decodeIf_eq_instr_iff {legal : Bool} {i k : Instr} : decodeIf legal i = .instr k ↔ legal = true ∧ i = k := by
  cases legal <;> simp [decodeIf]

/-- The field `idx` of RDD: two zero bits over the operand (R35, R36). -/
theorem eq_zero_append_iff {idx : BitVec 4} {j : BitVec 2} :
    idx = 0#2 ++ j ↔ idx.extractLsb' 2 2 = 0 ∧ idx.extractLsb' 0 2 = j := by
  revert idx j
  decide

/-! ### Decode and encode are inverse -/

/-- A command word decodes to an instruction exactly if it is that instruction's code (R35, R36). -/
theorem decodeCommand_eq_instr_iff {c : CmdWord} {i : Instr} : decodeCommand c = .instr i ↔ encode i = .cmd c := by
  constructor
  · intro h
    unfold decodeCommand at h
    split at h
    case h_1 hop | h_3 hop | h_5 hop =>
      obtain ⟨hz, rfl⟩ := decodeIf_eq_instr_iff.1 h
      rw [Bool.and_eq_true, beq_iff_eq, beq_iff_eq] at hz
      exact congrArg Code.cmd (cmdWord_eq_iff.2 ⟨hop, hz⟩)
    case h_2 hop =>
      cases h
      exact congrArg Code.cmd (cmdWord_eq_iff.2 ⟨hop, rfl, rfl⟩)
    case h_4 hop =>
      obtain ⟨hz, rfl⟩ := decodeIf_eq_instr_iff.1 h
      rw [Bool.and_eq_true, beq_iff_eq, beq_iff_eq] at hz
      exact congrArg Code.cmd (cmdWord_eq_iff.2 ⟨hop, eq_zero_append_iff.2 ⟨hz.1, rfl⟩, hz.2⟩)
    case h_6 => cases h
  · intro h
    cases i with
    | init | ldw _ _ | run | rds =>
      cases h
      simp [decodeCommand, decodeIf]
    | rdd j =>
      cases h
      obtain ⟨hhigh, hlow⟩ := (eq_zero_append_iff (j := j)).1 rfl
      simp [decodeCommand, decodeIf, hhigh, hlow]
    | stepF _ | stepG _ | stepH _ | stepI _ => cases h

/-- The micro-operation of a round at local step i (R39). -/
def RoundFn.microOp : RoundFn → BitVec 4 → Instr
  | .F => .stepF
  | .G => .stepG
  | .H => .stepH
  | .I => .stepI

@[simp] theorem encode_microOp (fn : RoundFn) (i : BitVec 4) : encode (fn.microOp i) = .sel (selector fn i) := by
  cases fn <;> rfl

theorem decodeSelector_eq_microOp (t : StepIndex) :
    decodeSelector t = (RoundFn.ofNumber (roundNumber t)).microOp (localStep t) := by
  unfold decodeSelector
  cases RoundFn.ofNumber (roundNumber t) <;> rfl

@[simp] theorem decodeSelector_selector (fn : RoundFn) (i : BitVec 4) :
    decodeSelector (selector fn i) = fn.microOp i := by
  simp [decodeSelector_eq_microOp]

/-- Every value of t is the code of the micro-operation it selects (R39). -/
theorem encode_decodeSelector (t : StepIndex) : encode (decodeSelector t) = .sel t := by
  rw [decodeSelector_eq_microOp, encode_microOp, selector_ofIndex]

/-- A value of t selects a micro-operation exactly if it is that micro-operation's code (R39). -/
theorem decodeSelector_eq_iff {t : StepIndex} {i : Instr} : decodeSelector t = i ↔ encode i = .sel t := by
  constructor
  · rintro rfl
    exact encode_decodeSelector t
  · intro h
    cases i with
    | init | ldw _ _ | run | rdd _ | rds => cases h
    | stepF i => cases h; exact decodeSelector_selector .F i
    | stepG i => cases h; exact decodeSelector_selector .G i
    | stepH i => cases h; exact decodeSelector_selector .H i
    | stepI i => cases h; exact decodeSelector_selector .I i

theorem decode_eq_instr_iff {code : Code} {i : Instr} : decode code = .instr i ↔ encode i = code := by
  cases code with
  | cmd c => exact decodeCommand_eq_instr_iff
  | sel t => rw [decode, Decoded.instr.injEq, decodeSelector_eq_iff]

/-- Settles O2: the code of an instruction is among the codes that decode to it. -/
theorem everyInstructionDecodesFromItsCode : Obligations.EveryInstructionDecodesFromItsCode := fun _ =>
  decode_eq_instr_iff.2 rfl

/-- Settles O3: no other code decodes to it. -/
theorem everyLegalCodeIsItsInstructionsCode : Obligations.EveryLegalCodeIsItsInstructionsCode := fun _ _ =>
  decode_eq_instr_iff.1

/-! ### The mask and match rows -/

theorem cmdOp_and_ones (c : CmdWord) : cmdOp c &&& 0xf = cmdOp c := BitVec.and_allOnes

/-- The row of a command without operands: the mask has all 40 bits (R35). -/
theorem decodeCommand_eq_instr_iff_and {c m : CmdWord} {i : Instr} (hi : encode i = .cmd m) :
    decodeCommand c = .instr i ↔ c &&& 0xffffffffff#40 = m := by
  have hmask : c &&& 0xffffffffff#40 = c := BitVec.and_allOnes
  rw [decodeCommand_eq_instr_iff, hi, hmask, Code.cmd.injEq, eq_comm]

theorem and_eq_ldwMatch_iff {c : CmdWord} : c &&& 0xf000000000#40 = 0x2000000000#40 ↔ cmdOp c = 2 :=
  calc c &&& 0xf000000000#40 = 0x2000000000#40
      ↔ cmdOp c &&& 0xf = 2 ∧ cmdIdx c &&& 0 = 0 ∧ cmdData c &&& 0 = 0 :=
        and_cmdWord_eq_iff (mop := 0xf) (midx := 0) (mdata := 0) (op := 2) (idx := 0) (data := 0)
    _ ↔ cmdOp c = 2 := by
      rw [cmdOp_and_ones]
      simp

theorem and_eq_rddMatch_iff {c : CmdWord} :
    c &&& 0xfcffffffff#40 = 0x4000000000#40 ↔ cmdOp c = 4 ∧ (cmdIdx c).extractLsb' 2 2 = 0 ∧ cmdData c = 0 := by
  have hdata : cmdData c &&& 0xffffffff = cmdData c := BitVec.and_allOnes
  have hidx : ∀ idx : BitVec 4, idx &&& 0xc = 0 ↔ idx.extractLsb' 2 2 = 0 := by decide
  calc c &&& 0xfcffffffff#40 = 0x4000000000#40
      ↔ cmdOp c &&& 0xf = 4 ∧ cmdIdx c &&& 0xc = 0 ∧ cmdData c &&& 0xffffffff = 0 :=
        and_cmdWord_eq_iff (mop := 0xf) (midx := 0xc) (mdata := 0xffffffff) (op := 4) (idx := 0) (data := 0)
    _ ↔ cmdOp c = 4 ∧ (cmdIdx c).extractLsb' 2 2 = 0 ∧ cmdData c = 0 := by
      rw [cmdOp_and_ones, hdata, hidx]

/-- The row of LDW, with its operands (R35, R36). -/
theorem decodeCommand_eq_ldw_iff {c : CmdWord} {k : BitVec 4} {v : Word} :
    decodeCommand c = .instr (.ldw k v) ↔
      c &&& 0xf000000000#40 = 0x2000000000#40 ∧ k = cmdIdx c ∧ v = cmdData c := by
  rw [decodeCommand_eq_instr_iff, encode, Code.cmd.injEq, cmdWord_eq_iff, and_eq_ldwMatch_iff, eq_comm (a := k),
    eq_comm (a := v)]

/-- The operand j of RDD, the low two bits of the field `idx` (R36). -/
theorem cmdIdx_low (c : CmdWord) : (cmdIdx c).extractLsb' 0 2 = c.extractLsb' 32 2 := by
  apply BitVec.eq_of_getLsbD_eq
  intro n hn
  have hn' : n < 4 := by omega
  simp [cmdIdx, hn, hn']

/-- The row of RDD, with its operand (R35, R36). -/
theorem decodeCommand_eq_rdd_iff {c : CmdWord} {j : BitVec 2} :
    decodeCommand c = .instr (.rdd j) ↔ c &&& 0xfcffffffff#40 = 0x4000000000#40 ∧ j = c.extractLsb' 32 2 := by
  rw [decodeCommand_eq_instr_iff, encode, Code.cmd.injEq, cmdWord_eq_iff, eq_zero_append_iff, cmdIdx_low,
    and_eq_rddMatch_iff]
  constructor
  · rintro ⟨hop, ⟨hz, hj⟩, hdata⟩
    exact ⟨⟨hop, hz, hdata⟩, hj.symm⟩
  · rintro ⟨⟨hop, hz, hdata⟩, hj⟩
    exact ⟨hop, ⟨hz, hj.symm⟩, hdata⟩

/-- Settles O1: a row per command, and ILLEGAL is what no command's row matches. -/
theorem commandWordsDecodeByMatchAndMask : Obligations.CommandWordsDecodeByMatchAndMask := by
  intro c
  have hinit : decodeCommand c = .instr .init ↔ _ := decodeCommand_eq_instr_iff_and rfl
  have hrun : decodeCommand c = .instr .run ↔ _ := decodeCommand_eq_instr_iff_and rfl
  have hrds : decodeCommand c = .instr .rds ↔ _ := decodeCommand_eq_instr_iff_and rfl
  refine ⟨hinit, fun k v => decodeCommand_eq_ldw_iff, hrun, fun j => decodeCommand_eq_rdd_iff, hrds, ?_, ?_⟩
  · intro h
    refine ⟨fun hm => ?_, fun hm => ?_, fun hm => ?_, fun hm => ?_, fun hm => ?_⟩
    · cases h.symm.trans (hinit.2 hm)
    · cases h.symm.trans (decodeCommand_eq_ldw_iff.2 ⟨hm, rfl, rfl⟩)
    · cases h.symm.trans (hrun.2 hm)
    · cases h.symm.trans (decodeCommand_eq_rdd_iff.2 ⟨hm, rfl⟩)
    · cases h.symm.trans (hrds.2 hm)
  · rintro ⟨hnoInit, hnoLdw, hnoRun, hnoRdd, hnoRds⟩
    cases hd : decodeCommand c with
    | illegal => rfl
    | instr i =>
      cases i with
      | init => exact absurd (hinit.1 hd) hnoInit
      | ldw k v => exact absurd (decodeCommand_eq_ldw_iff.1 hd).1 hnoLdw
      | run => exact absurd (hrun.1 hd) hnoRun
      | rdd j => exact absurd (decodeCommand_eq_rdd_iff.1 hd).1 hnoRdd
      | rds => exact absurd (hrds.1 hd) hnoRds
      | stepF _ | stepG _ | stepH _ | stepI _ => cases decodeCommand_eq_instr_iff.1 hd

/-! ### The selectors -/

@[simp] theorem RoundFn.number_ofNumber (r : BitVec 2) : (RoundFn.ofNumber r).number = r := by
  revert r
  decide

/-- Settles O4: a round's number over a local step is its micro-operation's selector, and every t is such a selector. -/
theorem stepCounterSelectsTheRound : Obligations.StepCounterSelectsTheRound := by
  refine ⟨fun i => ⟨decodeSelector_selector .F i, decodeSelector_selector .G i, decodeSelector_selector .H i,
    decodeSelector_selector .I i⟩, fun t => ?_⟩
  have ht := selector_ofIndex t
  have hnat := selector_toNat (RoundFn.ofNumber (roundNumber t)) (localStep t)
  rw [ht, RoundFn.number_ofNumber] at hnat
  rw [selector, RoundFn.number_ofNumber] at ht
  exact ⟨hnat, ht.symm⟩

/-- Settles O5: each word evaluated. -/
theorem specWordsDecode : Obligations.SpecWordsDecode := by
  unfold Obligations.SpecWordsDecode
  decide

end Sys2Proof
end

section
/-! SUPPORT. The assembler (30_encoding.md R41, R42): a line's operands fit their fields or the line is refused. -/

namespace Sys2Proof.Machine

/-! ### One line -/

theorem assembleLine_ldw (k v : Nat) :
    assembleLine (.ldw k v) = if k < 16 ∧ v < 2 ^ 32 then some [ldwWord k v] else none := by
  simp [assembleLine, AsmLine.wellFormed, AsmLine.words?]

theorem assembleLine_rdd (j : Nat) : assembleLine (.rdd j) = if j < 4 then some [rddWord j] else none := by
  simp [assembleLine, AsmLine.wellFormed, AsmLine.words?]

theorem assembleLine_word (w : Nat) :
    assembleLine (.word w) = if w < 2 ^ 40 then some [BitVec.ofNat 40 w] else none := by
  simp [assembleLine, AsmLine.wellFormed, AsmLine.words?]

/-- The 64 bytes of a block are read back as that block (R42). -/
theorem blockOfBytes?_toList (p : Block) : blockOfBytes? p.toList = some p := by
  simp [blockOfBytes?, Vector.toList]

theorem assembleLine_ldblk (p : Block) : assembleLine (.ldblk p.toList) = some (loadBlock p) := by
  simp [assembleLine, AsmLine.wellFormed, AsmLine.words?, blockOfBytes?_toList]

theorem assembleLine_hashblk (p : Block) : assembleLine (.hashblk p.toList) = some (hashBlock p) := by
  simp [assembleLine, AsmLine.wellFormed, AsmLine.words?, blockOfBytes?_toList]

/-! ### The words of LDW and RDD -/

/-- `LDW k, v` as a number (R41). -/
theorem ldwWord_toNat {k v : Nat} (hk : k < 16) (hv : v < 2 ^ 32) :
    (ldwWord k v).toNat = 0x2000000000 + k * 2 ^ 32 + v := by
  rw [ldwWord, BitVec.toNat_ofNat, Nat.mod_eq_of_lt (by omega)]

/-- `RDD j` as a number (R41). -/
theorem rddWord_toNat {j : Nat} (hj : j < 4) : (rddWord j).toNat = 0x4000000000 + j * 2 ^ 32 := by
  rw [rddWord, BitVec.toNat_ofNat, Nat.mod_eq_of_lt (by omega)]

/-- The assembler's word for LDW is the encoder's (R35, R41). -/
theorem encode_ldw_eq_ldwWord {k v : Nat} (hk : k < 16) (hv : v < 2 ^ 32) :
    encode (.ldw (BitVec.ofNat 4 k) (BitVec.ofNat 32 v)) = .cmd (ldwWord k v) := by
  refine congrArg Code.cmd (BitVec.eq_of_toNat_eq ?_)
  rw [cmdWord_toNat, ldwWord_toNat hk hv, BitVec.toNat_ofNat, BitVec.toNat_ofNat, Nat.mod_eq_of_lt hk,
    Nat.mod_eq_of_lt hv]
  rfl

/-- The assembler's word for RDD is the encoder's (R35, R41). -/
theorem encode_rdd_eq_rddWord {j : Nat} (hj : j < 4) : encode (.rdd (BitVec.ofNat 2 j)) = .cmd (rddWord j) := by
  revert j
  decide

/-- Settles O6: a line is refused exactly if an operand does not fit its field, and the words written are the encoder's. -/
theorem assemblerWritesTheCommandWords : Obligations.AssemblerWritesTheCommandWords := by
  refine ⟨fun k v hk hv => ?_, fun k v h => ?_, fun j hj => ?_, fun j hj => ?_, fun w hw => ?_, fun w hw => ?_,
    rfl, rfl, rfl⟩
  · have hk' : k < 16 := by omega
    have hv' : v < 2 ^ 32 := by omega
    exact ⟨ldwWord k v, (assembleLine_ldw k v).trans (if_pos ⟨hk', hv'⟩), ldwWord_toNat hk' hv',
      decodeCommand_eq_instr_iff.2 (encode_ldw_eq_ldwWord hk' hv')⟩
  · rw [assembleLine_ldw, if_neg (by omega)]
  · have hj' : j < 4 := by omega
    exact ⟨rddWord j, (assembleLine_rdd j).trans (if_pos hj'), rddWord_toNat hj',
      decodeCommand_eq_instr_iff.2 (encode_rdd_eq_rddWord hj')⟩
  · rw [assembleLine_rdd, if_neg (by omega)]
  · rw [assembleLine_word, if_pos (by omega)]
  · rw [assembleLine_word, if_neg (by omega)]

/-! ### The pseudo-instructions -/

/-- Word k of a block, little-endian from its four bytes (R25, R42). -/
theorem blockWords_getElem (p : Block) (k : Fin 16) :
    (blockWords p)[k] = leWord p[4 * k.val] p[4 * k.val + 1] p[4 * k.val + 2] p[4 * k.val + 3] :=
  Vector.getElem_ofFn _

theorem loadBlock_eq_map (p : Block) :
    loadBlock p = (List.finRange 16).map fun k =>
      ldwWord k.val (leWord p[4 * k.val] p[4 * k.val + 1] p[4 * k.val + 2] p[4 * k.val + 3]).toNat := by
  simp only [loadBlock, loadWords, blockWords_getElem]

/-- Settles O7: the two lines on a block by its words, RDDIG by evaluation. -/
theorem pseudoInstructionsExpand : Obligations.PseudoInstructionsExpand := by
  refine ⟨fun p => ⟨?_, ?_⟩, rfl⟩
  · rw [assembleLine_ldblk, loadBlock_eq_map]
    rfl
  · rw [assembleLine_hashblk, assembleLine_ldblk]
    rfl

end Sys2Proof.Machine
end

section
/-! SUPPORT. The command port of a busy engine (30_encoding.md R33): of the pin levels only `rst` reaches the transition. -/

namespace Sys2Proof.Machine

/-- The transition of a busy engine is chosen by `rst`, the phase and t alone (R33, R114). -/
theorem State.select_congr_of_busy {s s' : State} (hb : s.busy = true) (hphase : s'.phase = s.phase) (ht : s'.t = s.t)
    (hrst : s'.pins.rst = s.pins.rst) : s'.select = s.select := by
  cases hr : s.pins.rst with
  | true => rw [s'.select_reset (hrst.trans hr), s.select_reset hr]
  | false =>
    rcases s.busy_iff.1 hb with hp | hp
    · rw [s'.select_step (hrst.trans hr) (hphase.trans hp), s.select_step hr hp, ht]
    · rw [s'.select_feed (hrst.trans hr) (hphase.trans hp), s.select_feed hr hp]

/-- Settles O20: the same transition is selected, and the levels of this transition time are used up either way. -/
theorem busyEngineIgnoresTheCommandPins : Obligations.BusyEngineIgnoresTheCommandPins := by
  intro s p q rest hready hrst
  have hb : s.busy = true := by simpa [State.cmdReady] using hready
  have hsel : (s.withHost (p :: rest)).select = (s.withHost (q :: rest)).select :=
    State.select_congr_of_busy (s := s.withHost (q :: rest)) hb rfl rfl hrst
  change step (s.withHost (p :: rest)) = step (s.withHost (q :: rest))
  rw [step, step, hsel, State.withHost_tick, State.withHost_tick]

end Sys2Proof.Machine
end

section
/-! SUPPORT. The datapath primitives (40_primitives.md): the rotator bit by bit (R45) and its round trip (R46), sum32 as
nested add32 (R47), and words as four bytes, least significant first (R49, R50). -/

namespace Sys2Proof.Machine

/-! ### The rotator -/

/-- The two cases are a bit that stays below position 32 and one that wraps around (R45). -/
theorem getLsbD_rotl32_add_mod (x : Word) {n p : Nat} (h1 : 1 ≤ n) (h2 : n ≤ 31) (hp : p < 32) :
    (rotl32 x n).getLsbD ((p + n) % 32) = x.getLsbD p := by
  rw [rotl32_eq_rotateLeft x n h1 h2, BitVec.getLsbD_rotateLeft_of_le (by omega)]
  by_cases hwrap : p + n < 32
  · simp [Nat.mod_eq_of_lt hwrap, hwrap]
  · have hpos : (p + n) % 32 = p + n - 32 := by omega
    have hback : 32 - n + (p + n - 32) = p := by omega
    have hlow : p + n - 32 < n := by omega
    simp [hpos, hback, hlow]

/-- Settles O31, from the rotator's two cases. -/
theorem rotatorMovesEveryBit : Obligations.RotatorMovesEveryBit := fun x _ _ h1 h2 hp =>
  getLsbD_rotl32_add_mod x h1 h2 hp

/-- Settles O32: bit p goes to bit (p + n) mod 32, and from there back to bit p. -/
theorem rotationRoundTrip : Obligations.RotationRoundTrip := by
  intro x n h1 h2
  apply BitVec.eq_of_getLsbD_eq
  intro p hp
  have hback : ((p + n) % 32 + (32 - n)) % 32 = p := by omega
  calc (rotl32 (rotl32 x n) (32 - n)).getLsbD p
      = (rotl32 (rotl32 x n) (32 - n)).getLsbD (((p + n) % 32 + (32 - n)) % 32) := by rw [hback]
    _ = (rotl32 x n).getLsbD ((p + n) % 32) :=
        getLsbD_rotl32_add_mod _ (by omega) (by omega) (Nat.mod_lt _ (by decide))
    _ = x.getLsbD p := getLsbD_rotl32_add_mod x h1 h2 hp

/-! ### The adders -/

theorem sum32_cons (x : Word) (xs : List Word) : sum32 (x :: xs) = add32 x (sum32 xs) := by
  rw [add32_eq, sum32, List.map_cons, List.sum_cons, BitVec.ofNat_add, BitVec.ofNat_toNat, BitVec.setWidth_eq, sum32]

theorem sum32_eq_foldr_add32 (xs : List Word) : sum32 xs = xs.foldr add32 0 := by
  induction xs with
  | nil => rfl
  | cons x xs ih => rw [sum32_cons, ih, List.foldr_cons]

/-- Settles O33: add32 is the addition of bit vectors, and sum32 adds one operand at a time. -/
theorem addersDropTheCarry : Obligations.AddersDropTheCarry := by
  refine ⟨fun x y => ⟨BitVec.toNat_ofNat _ _, ?_⟩, fun x y z => ?_,
    fun xs => ⟨BitVec.toNat_ofNat _ _, sum32_eq_foldr_add32 xs⟩⟩
  · rw [add32_eq, add32_eq, BitVec.add_comm]
  · simp only [add32_eq, BitVec.add_assoc]

/-! ### Words and bytes -/

theorem leBytes_getD_toNat {n m : Nat} (x : BitVec (8 * n)) (hm : m < n) :
    ((leBytes n x).getD m 0).toNat = x.toNat / 2 ^ (8 * m) % 256 := by
  rw [List.getD_eq_getElem?_getD, leBytes_getElem? x hm, Option.getD_some, BitVec.extractLsb'_toNat,
    Nat.shiftRight_eq_div_pow]

theorem leBytes_four (x : Word) :
    leBytes 4 x = [x.extractLsb' 0 8, x.extractLsb' 8 8, x.extractLsb' 16 8, x.extractLsb' 24 8] := rfl

/-- The sum of R50 needs no reduction modulo 2^32. -/
theorem leWord_toNat (q0 q1 q2 q3 : Byte) :
    (leWord q0 q1 q2 q3).toNat = q0.toNat + 2 ^ 8 * q1.toNat + 2 ^ 16 * q2.toNat + 2 ^ 24 * q3.toNat := by
  rw [leWord, BitVec.toNat_ofNat, Nat.mod_eq_of_lt (by omega)]

theorem leBytes_leWord (q0 q1 q2 q3 : Byte) : leBytes 4 (leWord q0 q1 q2 q3) = [q0, q1, q2, q3] := by
  rw [leBytes_four]
  simp only [List.cons.injEq, and_true, BitVec.toNat_eq, BitVec.extractLsb'_toNat, leWord_toNat,
    Nat.shiftRight_eq_div_pow]
  omega

theorem leWord_extractLsb' (x : Word) :
    leWord (x.extractLsb' 0 8) (x.extractLsb' 8 8) (x.extractLsb' 16 8) (x.extractLsb' 24 8) = x := by
  apply BitVec.eq_of_toNat_eq
  simp only [leWord_toNat, BitVec.extractLsb'_toNat, Nat.shiftRight_eq_div_pow]
  omega

/-- Settles O34: both conversions as numbers, of which each undoes the other. -/
theorem wordsAndBytesAreInverse : Obligations.WordsAndBytesAreInverse := by
  refine ⟨fun n x => ⟨leBytes_length n x, fun m hm => leBytes_getD_toNat x hm⟩,
    fun q0 q1 q2 q3 => ⟨leWord_toNat q0 q1 q2 q3, leBytes_leWord q0 q1 q2 q3, fun rest => rfl⟩, fun x => ?_⟩
  rw [leBytes_four, decodeWordsLe, decodeWordsLe, Option.map_some, leWord_extractLsb']

end Sys2Proof.Machine
end

section
/-! SUPPORT. The host's message preparation (41_padding.md R53 to R57, R59): how long the padded message is, what its last 8
bytes hold, and that its blocks, put together, give it back. -/

namespace Sys2Proof.Machine

/-! ### The padded message -/

theorem paddingLength_pos (len : Nat) : 1 ≤ paddingLength len := by
  rw [paddingLength]
  omega

/-- The padding fills the message and its 8-byte suffix up to the next whole block (R53, R56). -/
theorem add_paddingLength_add (len : Nat) : len + paddingLength len + 8 = 64 * ((len + 8) / 64 + 1) := by
  rw [paddingLength]
  omega

/-- Settles O38: the padded length is a number of whole blocks. -/
theorem paddingLengthIsInRange : Obligations.PaddingLengthIsInRange := by
  intro len
  refine ⟨rfl, ?_, paddingLength_pos len, Nat.sub_le _ _⟩
  rw [add_paddingLength_add, Nat.mul_mod_right]

@[simp] theorem buildPadding_length (len : Nat) : (buildPadding len).length = paddingLength len := by
  have hpos := paddingLength_pos len
  rw [buildPadding, List.length_cons, List.length_replicate]
  omega

@[simp] theorem lengthSuffix_length (len : Nat) : (lengthSuffix len).length = 8 := leBytes_length 8 _

theorem padded_length (msg : List Byte) : (padded msg).length = 64 * ((msg.length + 8) / 64 + 1) := by
  rw [padded, List.length_append, List.length_append, buildPadding_length, lengthSuffix_length, add_paddingLength_add]

/-- The last 8 bytes of the padded message are the length suffix (R55, R56). -/
theorem padded_drop_length_sub (msg : List Byte) :
    (padded msg).drop ((padded msg).length - 8) = lengthSuffix msg.length := by
  apply List.drop_left'
  rw [padded, List.length_append (bs := lengthSuffix _), lengthSuffix_length, Nat.add_sub_cancel]

/-- The low n bytes of a number, read little-endian: one byte more is one reduction modulo 256 more. -/
theorem foldr_map_range_shiftRight (n v : Nat) :
    ((List.range n).map fun m => BitVec.ofNat 8 (v >>> (8 * m))).foldr (fun q r => q.toNat + 256 * r) 0 =
      v % 2 ^ (8 * n) := by
  induction n generalizing v with
  | zero => simp [Nat.mod_one]
  | succ n ih =>
    have hshift (m : Nat) : v >>> (8 * m.succ) = (v / 256) >>> (8 * m) := by
      rw [Nat.mul_succ, Nat.add_comm, Nat.shiftRight_add, Nat.shiftRight_eq_div_pow v 8]
    have hpow : 2 ^ (8 * (n + 1)) = 256 * 2 ^ (8 * n) := by rw [Nat.mul_succ, Nat.pow_add, Nat.mul_comm]
    rw [List.range_succ_eq_map, List.map_cons, List.map_map, List.foldr_cons, hpow, Nat.mod_mul, ← ih (v / 256)]
    simp [Function.comp_def, hshift]

/-- le_bytes read little-endian gives the value back (R49). -/
theorem leBytes_foldr (n : Nat) (x : BitVec (8 * n)) :
    (leBytes n x).foldr (fun q r => q.toNat + 256 * r) 0 = x.toNat := by
  rw [leBytes, foldr_map_range_shiftRight, Nat.mod_eq_of_lt x.isLt]

/-- Settles O39: the length, the shape and the last 8 bytes of the padded message, each by its own lemma. -/
theorem paddedMessageIsWholeBlocks : Obligations.PaddedMessageIsWholeBlocks := by
  intro msg
  rw [padded_drop_length_sub]
  refine ⟨padded_length msg, ⟨paddingLength msg.length - 1, rfl⟩, ?_⟩
  rw [lengthSuffix, leBytes_foldr, BitVec.toNat_ofNat]

/-! ### The blocks -/

theorem blockAt_toList {pm : List Byte} {n : Nat} (h : 64 * (n + 1) ≤ pm.length) :
    (blockAt pm n).toList = (pm.drop (64 * n)).take 64 := by
  apply List.ext_getElem
  · rw [Vector.length_toList, List.length_take, List.length_drop]
    omega
  · intro i hi _
    rw [Vector.length_toList] at hi
    have hlt : 64 * n + i < pm.length := by omega
    simp [blockAt, List.getD_eq_getElem?_getD, hlt]

/-- The first n blocks hold the first 64 n bytes. -/
theorem flatten_map_blockAt_range {pm : List Byte} {n : Nat} (h : 64 * n ≤ pm.length) :
    (((List.range n).map (blockAt pm)).map Vector.toList).flatten = pm.take (64 * n) := by
  induction n with
  | zero => rfl
  | succ n ih =>
    rw [List.range_succ, List.map_append, List.map_append, List.flatten_append, ih (by omega), Nat.mul_succ,
      List.take_add, ← blockAt_toList h]
    simp

/-- R57 for every text of whole blocks. -/
theorem flatten_splitBlocks {pm : List Byte} (h : 64 ∣ pm.length) :
    ((splitBlocks pm).map Vector.toList).flatten = pm := by
  have hlen : 64 * (pm.length / 64) = pm.length := Nat.mul_div_cancel' h
  rw [splitBlocks, flatten_map_blockAt_range hlen.le, hlen, List.take_length]

theorem splitBlocks_length (pm : List Byte) : (splitBlocks pm).length = pm.length / 64 := by
  rw [splitBlocks, List.length_map, List.length_range]

/-- Settles O40: the padded message is whole blocks, so the cut leaves no byte over. -/
theorem splittingLosesNothing : Obligations.SplittingLosesNothing := by
  intro msg
  constructor
  · exact flatten_splitBlocks ⟨_, padded_length msg⟩
  · rw [splitBlocks_length, padded_length, Nat.mul_div_cancel_left _ (by decide)]

end Sys2Proof.Machine
end

section
/-! SUPPORT. The nonlinear functions bit by bit (42_round_functions.md R60 to R63): the word operations act on each bit position
alone, so each function is its truth table there. -/

namespace Sys2Proof.Machine

/-- F selects by x (R60): of its two terms the bit of x lets one through. -/
theorem getLsbD_fnF (x y z : Word) {p : Nat} (hp : p < 32) :
    (fnF x y z).getLsbD p = if x.getLsbD p then y.getLsbD p else z.getLsbD p := by
  rw [fnF, BitVec.getLsbD_or, BitVec.getLsbD_and, BitVec.getLsbD_and, BitVec.getLsbD_not]
  cases x.getLsbD p
  case false => simp [hp]
  case true => simp

/-- G is F with z as the selector (R61). -/
theorem fnG_eq_fnF (x y z : Word) : fnG x y z = fnF z x y := by
  rw [fnG, fnF, BitVec.and_comm x z, BitVec.and_comm y (~~~z)]

theorem getLsbD_fnH (x y z : Word) (p : Nat) :
    (fnH x y z).getLsbD p = (x.getLsbD p ^^ (y.getLsbD p ^^ z.getLsbD p)) := by
  rw [fnH, BitVec.getLsbD_xor, BitVec.getLsbD_xor, Bool.xor_assoc]

theorem getLsbD_fnI (x y z : Word) {p : Nat} (hp : p < 32) :
    (fnI x y z).getLsbD p = (y.getLsbD p ^^ (x.getLsbD p || !z.getLsbD p)) := by
  rw [fnI, BitVec.getLsbD_xor, BitVec.getLsbD_or, BitVec.getLsbD_not, decide_eq_true hp, Bool.true_and]

/-- Settles O30, function by function; G's table is F's with its operands in another order. -/
theorem nonlinearFunctionsActBitwise : Obligations.NonlinearFunctionsActBitwise := by
  intro x y z p hp
  refine ⟨getLsbD_fnF x y z hp, ?_, getLsbD_fnH x y z p, getLsbD_fnI x y z hp⟩
  rw [fnG_eq_fnF, getLsbD_fnF z x y hp]

end Sys2Proof.Machine
end

section
/-! SUPPORT. The four micro-operations at work (43_step.md): the message index and the rotation amount of a local step
(R67 to R69), and the STEP transition of each round over bit vectors (R74 to R77, R81). -/

namespace Sys2Proof.Machine

/-! ### The scheduler -/

theorem msgIndex_G_toNat (i : BitVec 4) : (msgIndex .G i).toNat = (5 * i.toNat + 1) % 16 := BitVec.toNat_ofNat ..

theorem msgIndex_H_toNat (i : BitVec 4) : (msgIndex .H i).toNat = (3 * i.toNat + 5) % 16 := BitVec.toNat_ofNat ..

theorem msgIndex_I_toNat (i : BitVec 4) : (msgIndex .I i).toNat = 7 * i.toNat % 16 := BitVec.toNat_ofNat ..

/-- The local step of a round that reads message word k: 13, 11 and 7 are the inverses of 5, 3 and 7 modulo 16. -/
def stepReading : RoundFn → BitVec 4 → BitVec 4
  | .F, k => k
  | .G, k => 13 * (k - 1)
  | .H, k => 11 * (k - 5)
  | .I, k => 7 * k

theorem msgIndex_stepReading (fn : RoundFn) (k : BitVec 4) : msgIndex fn (stepReading fn k) = k := by
  revert k
  cases fn <;> decide

theorem stepReading_msgIndex (fn : RoundFn) (i : BitVec 4) : stepReading fn (msgIndex fn i) = i := by
  revert i
  cases fn <;> decide

/-- Settles O35: the formulas by definition, the permutation by the inverse `stepReading`. -/
theorem schedulerPermutesTheWords : Obligations.SchedulerPermutesTheWords := by
  refine ⟨fun i => ⟨rfl, msgIndex_G_toNat i, msgIndex_H_toNat i, msgIndex_I_toNat i⟩, fun fn k =>
    ⟨stepReading fn k, msgIndex_stepReading fn k, fun i hi => ?_⟩⟩
  rw [← hi, stepReading_msgIndex]

/-! ### The rotation amounts -/

@[simp] theorem rotAmount_selector (fn : RoundFn) (i : BitVec 4) :
    rotAmount (selector fn i) = (rotGroup fn)[i.toNat % 4] := by
  simp only [rotAmount, roundNumber_selector, RoundFn.ofNumber_number, localStep_selector]

theorem rotGroup_range (fn : RoundFn) (n : Nat) (hn : n < 4) : 4 ≤ (rotGroup fn)[n] ∧ (rotGroup fn)[n] ≤ 23 := by
  revert n
  cases fn <;> decide

/-- Settles O36: r and i name a selector, whose amount is the entry i mod 4 of its round's four. -/
theorem rotationAmountsRepeatPerRound : Obligations.RotationAmountsRepeatPerRound := by
  intro r i
  have hsel (j : BitVec 4) : r ++ j = selector (.ofNumber r) j := by rw [selector, RoundFn.number_ofNumber]
  have hlow : (i &&& 3).toNat % 4 = i.toNat % 4 := by
    rw [BitVec.toNat_and]
    exact (congrArg (· % 4) (Nat.and_two_pow_sub_one_eq_mod i.toNat 2)).trans (Nat.mod_mod ..)
  simp only [hsel, rotAmount_selector, hlow, true_and]
  exact rotGroup_range ..

/-! ### The STEP transition -/

/-- The last step, t = 63, is local step 15 of round 4 (R81). -/
theorem selector_eq_last_iff {fn : RoundFn} {i : BitVec 4} : selector fn i = 63 ↔ fn = .I ∧ i = 15 := by
  revert i
  cases fn <;> decide

theorem exec_microOp (fn : RoundFn) (i : BitVec 4) (s : State) : exec (fn.microOp i) s = .next (s.stepTransition fn i) := by
  cases fn <;> rfl

/-- The working registers after local step i of a round, over bit vectors (R72, R73). -/
def State.workAfterStep (s : State) (fn : RoundFn) (i : BitVec 4) : Quad :=
  ⟨s.work.d,
    (s.work.a + roundFunction fn s.work.b s.work.c s.work.d + s.msg[(msgIndex fn i).toNat]
      + roundConstant s.t).rotateLeft ((rotGroup fn)[i.toNat % 4]) + s.work.b,
    s.work.b, s.work.c⟩

section selected

variable {s : State} {fn : RoundFn} {i : BitVec 4} (hp : s.phase = .step) (ht : s.t = selector fn i)
include ht

theorem roundStep_eq_workAfterStep : roundStep fn i s.work s.msg = s.workAfterStep fn i := by
  rw [roundStep, stepResult_eq, rotAmount_selector, rotateRoles, State.workAfterStep, ht]

include hp

/-- A selected micro-operation other than the last advances t and stays in STEP (R81). -/
theorem exec_microOp_of_not_last (hlast : ¬(fn = .I ∧ i = 15)) :
    exec (fn.microOp i) s = .next { s with work := s.workAfterStep fn i, t := s.t + 1, rspv := false, rsp := 0 } := by
  have h63 : s.t ≠ 63 := fun h => hlast (selector_eq_last_iff.mp (ht ▸ h))
  rw [exec_microOp, s.stepTransition_enabled fn i hp ht, if_neg h63, if_neg h63, hp, roundStep_eq_workAfterStep ht]

/-- The last micro-operation leaves t at 63 and goes on to FEED (R81). -/
theorem exec_microOp_of_last (hlast : fn = .I ∧ i = 15) :
    exec (fn.microOp i) s =
      .next { s with work := s.workAfterStep fn i, t := 63, phase := .feed, rspv := false, rsp := 0 } := by
  have h63 : s.t = 63 := ht.trans (selector_eq_last_iff.mpr hlast)
  rw [exec_microOp, s.stepTransition_enabled fn i hp ht, if_pos h63, if_pos h63, h63, roundStep_eq_workAfterStep ht]

end selected

/-- Settles O21: round 1 never holds the last step, and its operands are those of `workAfterStep` by definition. -/
theorem stepFComputesRoundOne : Obligations.StepFComputesRoundOne := fun _ _ hp ht =>
  exec_microOp_of_not_last (fn := .F) hp ht (by simp)

/-- Settles O22: as round 1, with `msgIndex .G i` as R67 writes it. -/
theorem stepGComputesRoundTwo : Obligations.StepGComputesRoundTwo := fun _ _ hp ht =>
  exec_microOp_of_not_last (fn := .G) hp ht (by simp)

/-- Settles O23: as round 1, with `msgIndex .H i` as R67 writes it. -/
theorem stepHComputesRoundThree : Obligations.StepHComputesRoundThree := fun _ _ hp ht =>
  exec_microOp_of_not_last (fn := .H) hp ht (by simp)

/-- Settles O24, by whether i is the last local step; the operands are those of `workAfterStep` by definition. -/
theorem stepIComputesRoundFour : Obligations.StepIComputesRoundFour := by
  intro s i hp ht
  by_cases hi : i = 15
  · rw [if_pos hi, if_pos hi]
    exact exec_microOp_of_last (fn := .I) hp ht ⟨rfl, hi⟩
  · rw [if_neg hi, if_neg hi, ← hp]
    exact exec_microOp_of_not_last (fn := .I) hp ht fun hlast => hi hlast.2

end Sys2Proof.Machine
end

section
/-! SUPPORT. The round constants are sines (43_step.md R70, R71). The sine of n radians is the imaginary part of
`exp(i)^n`; the first twenty terms of the exponential series give exp(i) to within 2^-60, and a power of two numbers of
norm at most 1 keeps them close. So the powers of one Gaussian rational bracket all 64 table entries. -/

namespace Sys2Proof.Machine

open Complex Finset
open scoped Nat

/-! ### exp(i) as a Gaussian rational -/

/-- The first twenty terms of the series of exp(i), over the common denominator 19!. -/
def expINumerator : GaussianInt := ∑ m ∈ range 20, (19 ! / m ! : ℕ) * ⟨0, 1⟩ ^ m

/-- exp(i) to twenty terms. -/
noncomputable def expIApprox : ℂ := (expINumerator : ℂ) / (19 ! : ℕ)

theorem expIApprox_eq_sum : expIApprox = ∑ m ∈ range 20, I ^ m / m ! := by
  have hI : ((⟨0, 1⟩ : GaussianInt) : ℂ) = I := by simp [GaussianInt.toComplex_def']
  rw [expIApprox, expINumerator, map_sum, sum_div]
  refine sum_congr rfl fun m hm => ?_
  have hdvd : m ! ∣ 19 ! := Nat.factorial_dvd_factorial (Nat.le_of_lt_succ (mem_range.mp hm))
  have hm0 : (m ! : ℂ) ≠ 0 := Nat.cast_ne_zero.mpr m.factorial_ne_zero
  have h0 : ((19 ! : ℕ) : ℂ) ≠ 0 := Nat.cast_ne_zero.mpr (Nat.factorial_ne_zero 19)
  rw [map_mul, map_pow, map_natCast, hI, Nat.cast_div hdvd hm0]
  field_simp

theorem norm_exp_I_sub_expIApprox_le : ‖exp I - expIApprox‖ ≤ 1 / 2 ^ 60 := by
  rw [expIApprox_eq_sum]
  refine (exp_bound norm_I.le (by decide)).trans ?_
  norm_num [Nat.factorial]

theorem norm_exp_I_le_one : ‖exp I‖ ≤ 1 := by simpa using (norm_exp_ofReal_mul_I 1).le

theorem norm_expIApprox_le_one : ‖expIApprox‖ ≤ 1 := by
  have hnorm : expINumerator.norm ≤ (19 ! : ℤ) ^ 2 := by decide +kernel
  have h0 : (0 : ℝ) < (19 ! : ℕ) := Nat.cast_pos.mpr (Nat.factorial_pos 19)
  have hsq : ‖(expINumerator : ℂ)‖ ^ 2 ≤ ((19 ! : ℕ) : ℝ) ^ 2 := by
    rw [Complex.sq_norm, ← GaussianInt.intCast_real_norm]
    exact_mod_cast hnorm
  rw [expIApprox, norm_div, norm_natCast, div_le_one h0]
  exact le_of_sq_le_sq hsq h0.le

/-! ### Its powers, and the sines -/

/-- Two numbers of norm at most 1 drift apart by at most their distance with each power. -/
theorem norm_pow_sub_pow_le {u w : ℂ} (hu : ‖u‖ ≤ 1) (hw : ‖w‖ ≤ 1) (n : ℕ) : ‖u ^ n - w ^ n‖ ≤ n * ‖u - w‖ := by
  induction n with
  | zero => simp
  | succ n ih =>
    have hpow : ‖w ^ n‖ ≤ 1 := by
      rw [norm_pow]
      exact pow_le_one₀ (norm_nonneg w) hw
    calc ‖u ^ (n + 1) - w ^ (n + 1)‖ = ‖u * (u ^ n - w ^ n) + (u - w) * w ^ n‖ := by ring_nf
      _ ≤ ‖u‖ * ‖u ^ n - w ^ n‖ + ‖u - w‖ * ‖w ^ n‖ := by
        rw [← norm_mul, ← norm_mul]
        exact norm_add_le _ _
      _ ≤ 1 * (n * ‖u - w‖) + ‖u - w‖ * 1 := by gcongr
      _ = (n + 1 : ℕ) * ‖u - w‖ := by
        push_cast
        ring

/-- |sin n| times 19!^n, to the precision of the series. -/
def sineNumerator (n : ℕ) : ℕ := (expINumerator ^ n).im.natAbs

theorem abs_im_expIApprox_pow (n : ℕ) : |(expIApprox ^ n).im| = sineNumerator n / (19 ! : ℝ) ^ n := by
  have hpow : expIApprox ^ n = ((expINumerator ^ n : GaussianInt) : ℂ) / ((19 ! ^ n : ℕ) : ℂ) := by
    rw [expIApprox, div_pow, map_pow, Nat.cast_pow]
  rw [hpow, div_natCast_im, ← GaussianInt.intCast_im, abs_div, Nat.abs_cast, sineNumerator, Nat.cast_natAbs,
    Int.cast_abs, Nat.cast_pow]

theorem exp_I_pow_im (n : ℕ) : (exp I ^ n).im = Real.sin n := by
  rw [← exp_nat_mul, ← exp_ofReal_mul_I_im, ofReal_natCast]

theorem abs_abs_sin_sub_sineNumerator_le (n : ℕ) :
    |(|Real.sin n| - sineNumerator n / (19 ! : ℝ) ^ n)| ≤ n * (1 / 2 ^ 60) := by
  rw [← exp_I_pow_im, ← abs_im_expIApprox_pow]
  calc |(|(exp I ^ n).im| - |(expIApprox ^ n).im|)| ≤ |(exp I ^ n - expIApprox ^ n).im| := abs_abs_sub_abs_le _ _
    _ ≤ ‖exp I ^ n - expIApprox ^ n‖ := abs_im_le_norm _
    _ ≤ n * ‖exp I - expIApprox‖ := norm_pow_sub_pow_le norm_exp_I_le_one norm_expIApprox_le_one n
    _ ≤ n * (1 / 2 ^ 60) := by gcongr; exact norm_exp_I_sub_expIApprox_le

/-- A bracket in integers, 2^-22 inside k and k + 1, fixes the floor for the 64 angles of the table. -/
theorem floor_abs_sin_eq {n k : ℕ} (hn : n ≤ 64) (hlo : (2 ^ 22 * k + 1) * 19 ! ^ n ≤ 2 ^ 54 * sineNumerator n)
    (hhi : 2 ^ 54 * sineNumerator n + 19 ! ^ n < 2 ^ 22 * (k + 1) * 19 ! ^ n) :
    ⌊(2 : ℝ) ^ 32 * |Real.sin n|⌋ = (k : ℤ) := by
  have hpos : (0 : ℝ) < (19 ! : ℝ) ^ n := pow_pos (Nat.cast_pos.mpr (Nat.factorial_pos 19)) n
  have hlo' : (2 ^ 22 * k + 1 : ℝ) ≤ 2 ^ 54 * (sineNumerator n / (19 ! : ℝ) ^ n) := by
    rw [← mul_div_assoc, le_div_iff₀ hpos]
    exact_mod_cast hlo
  have hhi' : 2 ^ 54 * (sineNumerator n / (19 ! : ℝ) ^ n) + 1 < (2 ^ 22 * (k + 1) : ℝ) := by
    rw [← mul_div_assoc, ← lt_sub_iff_add_lt, div_lt_iff₀ hpos, sub_one_mul, lt_sub_iff_add_lt]
    exact_mod_cast hhi
  have hn' : (n : ℝ) ≤ 64 := by exact_mod_cast hn
  obtain ⟨hbelow, habove⟩ := abs_le.mp (abs_abs_sin_sub_sineNumerator_le n)
  rw [Int.floor_eq_iff, Int.cast_natCast]
  constructor <;> linarith

theorem roundConstant_bracket (t : StepIndex) :
    (2 ^ 22 * (roundConstant t).toNat + 1) * 19 ! ^ (t.toNat + 1) ≤ 2 ^ 54 * sineNumerator (t.toNat + 1) ∧
    2 ^ 54 * sineNumerator (t.toNat + 1) + 19 ! ^ (t.toNat + 1) <
      2 ^ 22 * ((roundConstant t).toNat + 1) * 19 ! ^ (t.toNat + 1) := by
  revert t
  decide +kernel

/-- Settles O37: the bracket of each table entry, checked in integers, fixes the floor. -/
theorem roundConstantsAreSines : Obligations.RoundConstantsAreSines := by
  intro t
  obtain ⟨hlo, hhi⟩ := roundConstant_bracket t
  rw [← Nat.cast_add_one, floor_abs_sin_eq t.isLt hlo hhi]

end Sys2Proof.Machine
end

section
/-! SUPPORT. The compression of a block (44_block_compression.md): what RUN and the micro-operations write and leave (R79 to
R82), and the course of the working registers from the acceptance of a RUN to its FEED (R84). -/

namespace Sys2Proof.Machine

/-! ### RUN as a command -/

theorem State.blockComplete_iff (s : State) : s.blockComplete = true ↔ s.mv = 0xffff := beq_iff_eq

section exec_run

variable {s : State}

/-- R79: the acceptance on a complete block. -/
theorem exec_run_of_complete (hp : s.phase = .idle) (hmv : s.mv = 0xffff) : exec .run s = .next s.startRun := by
  rw [exec, execRun, State.accept_idle _ _ _ hp, if_pos (s.blockComplete_iff.2 hmv)]

/-- R80: the acceptance on an incomplete block. -/
theorem exec_run_of_incomplete (hp : s.phase = .idle) (hmv : s.mv ≠ 0xffff) :
    exec .run s = .next (s.raiseFault blockIncomplete) := by
  rw [exec, execRun, State.accept_idle _ _ _ hp, if_neg (mt s.blockComplete_iff.1 hmv)]

/-- Outside IDLE a RUN clears the response register at most (R93, R33). -/
theorem exec_run_of_not_idle (hp : s.phase ≠ .idle) :
    exec .run s = .next s.clearResponse ∨ exec .run s = .next s := by
  rw [exec, execRun]
  rcases s.accept_cases _ _ with ⟨hidle, -⟩ | ⟨-, ha⟩ | ⟨-, ha⟩
  · exact absurd hidle hp
  · exact .inl (congrArg _ ha)
  · exact .inr (congrArg _ ha)

end exec_run

/-- Settles O16: the code of RUN evaluated, and the two acceptances in IDLE. -/
theorem runStartsOrFaults : Obligations.RunStartsOrFaults := by
  refine ⟨fun c => ?_, fun s hp => ⟨exec_run_of_complete hp, exec_run_of_incomplete hp⟩⟩
  have hcode : encode .run = .cmd 0x3000000000#40 := by decide
  rw [decodeCommand_eq_instr_iff, hcode, Code.cmd.injEq, eq_comm]

/-- Settles O27: RUN starts, faults, or (outside IDLE) clears the response register at most. -/
theorem runFrame : Obligations.RunFrame := by
  intro s s' h
  by_cases hp : s.phase = .idle
  · by_cases hmv : s.mv = 0xffff
    · cases (exec_run_of_complete hp hmv).symm.trans h
      exact ⟨rfl, rfl, rfl, rfl, absurd hmv, fun _ => rfl, absurd hp⟩
    · cases (exec_run_of_incomplete hp hmv).symm.trans h
      exact ⟨rfl, rfl, rfl, rfl, fun _ => ⟨rfl, rfl⟩, fun hmv' => absurd hmv' hmv, absurd hp⟩
  · rcases exec_run_of_not_idle hp with hx | hx
    · cases hx.symm.trans h
      simp
    · cases hx.symm.trans h
      simp

/-! ### The frame of the micro-operations -/

section microOp

variable {s s' : State} {fn : RoundFn} {i : BitVec 4}

theorem exec_microOp_of_not_selected (hns : ¬(s.phase = .step ∧ s.t = selector fn i))
    (h : exec (fn.microOp i) s = .next s') : s' = s := by
  rw [exec_microOp, s.stepTransition_disabled fn i hns] at h
  cases h
  rfl

theorem exec_microOp_frame (h : exec (fn.microOp i) s = .next s') :
    s'.acc = s.acc ∧ s'.msg = s.msg ∧ s'.mv = s.mv ∧ s'.fcode = s.fcode ∧ s'.host = s.host := by
  by_cases hsel : s.phase = .step ∧ s.t = selector fn i
  · rw [exec_microOp, s.stepTransition_enabled fn i hsel.1 hsel.2] at h
    cases h
    exact ⟨rfl, rfl, rfl, rfl, rfl⟩
  · rw [exec_microOp_of_not_selected hsel h]
    exact ⟨rfl, rfl, rfl, rfl, rfl⟩

end microOp

/-- Settles O29: each of the four is the micro-operation of its round, whose selector has the round number on top. -/
theorem microOperationFrame : Obligations.MicroOperationFrame := by
  refine ⟨fun s s' i h => ?_, fun s s' i => ⟨?_, ?_, ?_, ?_⟩⟩
  · rcases h with h | h | h | h
    · exact exec_microOp_frame (fn := .F) h
    · exact exec_microOp_frame (fn := .G) h
    · exact exec_microOp_frame (fn := .H) h
    · exact exec_microOp_frame (fn := .I) h
  · exact exec_microOp_of_not_selected (fn := .F)
  · exact exec_microOp_of_not_selected (fn := .G)
  · exact exec_microOp_of_not_selected (fn := .H)
  · exact exec_microOp_of_not_selected (fn := .I)

/-! ### The course of the working registers -/

/-- The step that t selects takes `w_t` to `w_(t+1)` (R84). -/
theorem stepAt_workAfter (acc : Quad) (m : Words) (t : StepIndex) :
    stepAt t (workAfter acc m t.toNat) m = workAfter acc m (t.toNat + 1) := by
  rw [workAfter_succ, BitVec.ofNat_toNat, BitVec.setWidth_eq]

/-- Only a busy engine has a course to keep. -/
theorem State.workOnCourse_of_ready {s : State} (hp : s.phase = .idle ∨ s.phase = .halt) : s.WorkOnCourse := by
  rcases hp with hp | hp <;> simp [State.WorkOnCourse, hp]

theorem Transition.workOnCourse {s s' : State} (hs : s.WorkOnCourse) (h : Transition s s') : s'.WorkOnCourse := by
  cases h with
  | step hsel hp =>
    have hwork : stepAt s.t s.work s.msg = workAfter s.acc s.msg (s.t.toNat + 1) := by
      rw [hs.1 hp, stepAt_workAfter]
    by_cases ht : s.t = 63
    · have h64 : s.t.toNat + 1 = 64 := by rw [ht]; rfl
      rw [h64] at hwork
      exact ⟨fun hstep => absurd hstep (by simp [ht]), fun _ => hwork⟩
    · have hsucc : (s.t + 1).toNat = s.t.toNat + 1 := by bv_omega
      refine ⟨fun _ => ?_, fun hfeed => absurd hfeed (by simpa using ht)⟩
      simp only [if_neg ht, hsucc, hwork]
  | run hsel hp hmv => exact ⟨fun _ => rfl, fun hfeed => by cases hfeed⟩
  | reset hsel => exact State.workOnCourse_of_ready (.inl rfl)
  | feed hsel hp => exact State.workOnCourse_of_ready (.inl rfl)
  | init hsel hp => exact State.workOnCourse_of_ready (.inl hp)
  | ldw k v hsel hp => exact State.workOnCourse_of_ready (.inl hp)
  | runIncomplete hsel hp hmv => exact State.workOnCourse_of_ready (.inr rfl)
  | illegal hsel hp => exact State.workOnCourse_of_ready (.inr rfl)
  | rdd j hsel hp => exact State.workOnCourse_of_ready hp
  | rds hsel hp => exact State.workOnCourse_of_ready hp
  | discard hsel hp => exact State.workOnCourse_of_ready (.inr hp)
  | wait hsel hp => exact State.workOnCourse_of_ready hp

/-- Settles O45, row by row of R15: RUN starts the course at `w_0`, a STEP goes on by one step, every other row leaves the
engine ready. -/
theorem workingRegistersStayOnCourse : Obligations.WorkingRegistersStayOnCourse := fun _ _ hs h =>
  (Transition.of_step h).workOnCourse hs

/-! ### A RUN from acceptance to FEED -/

section transition

variable {s : State}

theorem step_of_phase_feed (hp : s.phase = .feed) (hrst : s.pins.rst = false) :
    step s = .next s.tick.feedTransition := by
  rw [step, s.select_feed hrst hp]

theorem step_of_phase_step (hp : s.phase = .step) (hrst : s.pins.rst = false) :
    step s = .next { s.tick with
      work := stepAt s.t s.work s.msg
      phase := if s.t = 63 then .feed else .step
      t := if s.t = 63 then s.t else s.t + 1
      rspv := false
      rsp := 0 } := by
  rw [step_of_select_instr (s.select_step hrst hp)]
  exact exec_decodeSelector_step s.tick s rfl hp

theorem step_run_of_complete (hp : s.phase = .idle) (hmv : s.mv = 0xffff) (hrst : s.pins.rst = false)
    (hvalid : s.pins.cmdValid = true) (hd : decodeCommand s.pins.cmd = .instr .run) :
    step s = .next s.tick.startRun := by
  have hsel : s.select = .instr .run := by
    rw [s.select_ready hrst (.inl hp), HostPins.selectCommand, if_pos hvalid, hd, Selected.ofDecoded]
  rw [step_of_select_instr hsel, exec_run_of_complete (s := s.tick) hp hmv]

end transition

/-- Settles O12: the FEED transition, with the sum of the two quads word by word. -/
theorem feedAddsElementwise : Obligations.FeedAddsElementwise := by
  intro s hp hrst
  rw [step_of_phase_feed hp hrst, State.feedTransition, addQuad_eq]
  rfl

/-- The engine after the acceptance of a RUN in s and n of its 64 steps (R79, R81). -/
def State.inRun (s : State) (n : Nat) : State :=
  { s with
    work := workAfter s.acc s.msg n
    t := BitVec.ofNat 6 (min n 63)
    phase := if n < 64 then .step else .feed
    rspv := false
    rsp := 0
    host := s.host.drop (n + 1) }

theorem State.inRun_busy (s : State) (n : Nat) : (s.inRun n).busy = true := by
  rw [State.busy_iff, State.inRun]
  split
  · exact .inl rfl
  · exact .inr rfl

/-- The pin levels after n transitions. -/
theorem State.inRun_pins (s : State) (n : Nat) : (s.inRun n).pins = s.host.getD (n + 1) HostPins.quiet := by
  simp [State.pins, State.inRun, List.headD_eq_head?_getD]

theorem State.startRun_eq_inRun (s : State) : s.tick.startRun = s.inRun 0 := by
  simp [State.startRun, State.tick, State.clearResponse, State.inRun]

/-- One step of the RUN: `w_n` becomes `w_(n+1)`, and t advances until the last step, where FEED follows (R81, R84). -/
theorem State.step_inRun {s : State} {n : Nat} (hn : n < 64) (hrst : (s.inRun n).pins.rst = false) :
    step (s.inRun n) = .next (s.inRun (n + 1)) := by
  have ht : (s.inRun n).t = BitVec.ofNat 6 n := congrArg (BitVec.ofNat 6) (min_eq_left (by omega))
  have hlast : BitVec.ofNat 6 n = 63 ↔ ¬n + 1 < 64 := by bv_omega
  have hsucc : (if ¬n + 1 < 64 then BitVec.ofNat 6 n else BitVec.ofNat 6 n + 1) = BitVec.ofNat 6 (min (n + 1) 63) := by
    split <;> bv_omega
  rw [step_of_phase_step (if_pos hn) hrst, ht]
  simp only [hlast, hsucc, ite_not]
  simp [State.inRun, State.tick, workAfter_succ]

/-- The FEED of a RUN accepted in s, from s (R82, R84). -/
theorem State.feedTransition_inRun {s : State} (hp : s.phase = .idle) :
    (s.inRun 64).tick.feedTransition = { s with
      acc := compress s.acc s.msg
      work := workAfter s.acc s.msg 64
      mv := 0
      t := 0
      rspv := false
      rsp := 0
      host := s.host.drop 66 } := by
  simp [State.feedTransition, State.tick, State.clearResponse, State.inRun, compress, hp]

/-- One transition more at the end of a run. -/
theorem core_run_succ_of_step {n : Nat} {s s' s'' : State} (hrun : Host.Core.run Sys2Proof.core n s = .next s')
    (hstep : step s' = .next s'') : Host.Core.run Sys2Proof.core (n + 1) s = .next s'' :=
  (run_add_of_run Sys2Proof.core n 1 s s' hrun).trans (core_run_one s' s'' hstep)

/-- The transitions of a RUN before its FEED, by induction on the steps done (R79). -/
theorem core_run_eq_inRun {s : State} (hstart : step s = .next (s.inRun 0))
    (hrst : ∀ n < 66, (s.host.getD n HostPins.quiet).rst = false) {n : Nat} (hn : n ≤ 64) :
    Host.Core.run Sys2Proof.core (n + 1) s = .next (s.inRun n) := by
  induction n with
  | zero => exact core_run_one s _ hstart
  | succ n ih =>
    have hpins : (s.inRun n).pins.rst = false := by
      rw [State.inRun_pins]
      exact hrst _ (by omega)
    exact core_run_succ_of_step (ih (by omega)) (State.step_inRun hn hpins)

/-- Settles O52: the acceptance, the 64 steps of `State.inRun`, in all of which the engine is busy, and the FEED. -/
theorem runCompressesTheBlock : Obligations.RunCompressesTheBlock := by
  intro s hp hmv hvalid hd hrst
  have hpins : s.pins.rst = false := by
    rw [State.pins, List.headD_eq_getD]
    exact hrst 0 (by decide)
  have hstart : step s = .next (s.inRun 0) := by
    rw [step_run_of_complete hp hmv hpins hvalid hd, State.startRun_eq_inRun]
  refine ⟨?_, fun n h1 h65 => ?_⟩
  · have hfeed : (s.inRun 64).pins.rst = false := by
      rw [State.inRun_pins]
      exact hrst 65 (by decide)
    rw [← State.feedTransition_inRun hp]
    exact core_run_succ_of_step (core_run_eq_inRun hstart hrst le_rfl) (step_of_phase_feed rfl hfeed)
  · obtain ⟨k, rfl⟩ := Nat.exists_eq_add_of_le' h1
    exact ⟨s.inRun k, core_run_eq_inRun hstart hrst (by omega), s.inRun_busy k⟩

end Sys2Proof.Machine
end

section
/-! SUPPORT. The host commands (45_commands.md): the word of each, what it does when accepted in IDLE (R89 to R92, R94) and in
HALT (R93), and that outside IDLE no command reaches more than the response register. -/

namespace Sys2Proof.Machine

/-! ### The words of the commands -/

/-- A command has one word (R41). -/
theorem decodeCommand_eq_instr_iff_eq {c m : CmdWord} {i : Instr} (hi : encode i = .cmd m) :
    decodeCommand c = .instr i ↔ c = m := by
  rw [decodeCommand_eq_instr_iff, hi, Code.cmd.injEq, eq_comm]

theorem decodeCommand_eq_instr_iff_toNat_eq {c m : CmdWord} {i : Instr} (hi : encode i = .cmd m) :
    decodeCommand c = .instr i ↔ c.toNat = m.toNat := by
  rw [decodeCommand_eq_instr_iff_eq hi, BitVec.toNat_inj]

/-- Zero bits on top do not change the number. -/
theorem toNat_zero_append {m n : Nat} (x : BitVec n) : (0#m ++ x).toNat = x.toNat := by
  simp

/-! ### Commands in IDLE and HALT -/

section exec_command

variable {s s' : State} {i : Instr}

/-- R89. -/
theorem exec_init_of_idle (hp : s.phase = .idle) :
    exec .init s = .next (State.clearResponse { s with acc := initialAcc }) :=
  congrArg Host.Outcome.next (s.accept_idle _ _ hp)

/-- R90. -/
theorem exec_ldw_of_idle (k : BitVec 4) (v : Word) (hp : s.phase = .idle) :
    exec (.ldw k v) s = .next ((s.setMsgWord k v).setValid k).clearResponse :=
  congrArg Host.Outcome.next (s.accept_idle _ _ hp)

/-- What an acceptance does that is the same in IDLE and HALT, as that of RDD and RDS is (R93). -/
theorem State.accept_of_ready (f : State → State) (hp : s.phase = .idle ∨ s.phase = .halt) : s.accept f f = f s :=
  hp.elim (s.accept_idle f f) (s.accept_halt f f)

/-- R91, R93. -/
theorem exec_rdd_of_ready (j : BitVec 2) (hp : s.phase = .idle ∨ s.phase = .halt) :
    exec (.rdd j) s = .next (s.respond (s.accWord j)) :=
  congrArg Host.Outcome.next (State.accept_of_ready _ hp)

/-- R92, R93. -/
theorem exec_rds_of_ready (hp : s.phase = .idle ∨ s.phase = .halt) : exec .rds s = .next (s.respond s.status) :=
  congrArg Host.Outcome.next (State.accept_of_ready _ hp)

/-- The commands whose meaning changes more than the response register are discarded in HALT (R93). -/
theorem exec_discarded_of_halt (hi : i = .init ∨ (∃ k v, i = .ldw k v) ∨ i = .run) (hp : s.phase = .halt) :
    exec i s = .next s.clearResponse := by
  have hdiscard (f : State → State) := congrArg (Host.Outcome.next (φ := Fault) (ρ := Refusal))
    (s.accept_halt f State.clearResponse hp)
  rcases hi with rfl | ⟨k, v, rfl⟩ | rfl
  · exact hdiscard _
  · exact hdiscard _
  · exact hdiscard _

/-- While the engine is busy a command has no effect (R33; log entry 3). -/
theorem exec_command_of_busy (hc : i.isCommand = true) (hb : s.busy = true) : exec i s = .next s := by
  cases i with
  | init | ldw _ _ | run | rdd _ | rds => exact congrArg Host.Outcome.next (s.accept_busy _ _ hb)
  | stepF _ | stepG _ | stepH _ | stepI _ => cases hc

/-- Outside IDLE a command changes the response register at most: in HALT by R93, in STEP and FEED by R33 (log entry 3). -/
theorem exec_command_frame_of_not_idle (hc : i.isCommand = true) (hp : s.phase ≠ .idle) (h : exec i s = .next s') :
    ∃ b r, s' = { s with rspv := b, rsp := r } := by
  by_cases hhalt : s.phase = .halt
  · rcases exec_command_cases (.inr hhalt) hc h with
      ⟨-, hidle, -⟩ | ⟨_, _, -, hidle, -⟩ | ⟨-, hidle, -⟩ | ⟨-, hidle, -⟩ | ⟨_, -, hs⟩ | ⟨-, hs⟩ | ⟨-, -, hs⟩
    · exact absurd hidle hp
    · exact absurd hidle hp
    · exact absurd hidle hp
    · exact absurd hidle hp
    · exact ⟨_, _, hs⟩
    · exact ⟨_, _, hs⟩
    · exact ⟨_, _, hs⟩
  · have hb : s.busy = true := by
      rw [s.busy_iff]
      cases hphase : s.phase with
      | idle => exact absurd hphase hp
      | step => exact .inl rfl
      | feed => exact .inr rfl
      | halt => exact absurd hphase hhalt
    cases (exec_command_of_busy hc hb).symm.trans h
    exact ⟨_, _, rfl⟩

end exec_command

/-! ### INIT -/

/-- Settles O14: the code of INIT evaluated, and its acceptance in IDLE. -/
theorem initLoadsTheInitialValues : Obligations.InitLoadsTheInitialValues :=
  ⟨fun _ => decodeCommand_eq_instr_iff_eq (by decide), fun _ hp => exec_init_of_idle hp⟩

/-- Settles O25: by what INIT does in IDLE, and the frame of every command outside it. -/
theorem initFrame : Obligations.InitFrame := by
  intro s s' h
  by_cases hp : s.phase = .idle
  · cases (exec_init_of_idle hp).symm.trans h
    exact ⟨rfl, rfl, rfl, rfl, rfl, rfl, rfl, absurd hp⟩
  · obtain ⟨b, r, rfl⟩ := exec_command_frame_of_not_idle rfl hp h
    exact ⟨rfl, rfl, rfl, rfl, rfl, rfl, rfl, fun _ => rfl⟩

/-! ### LDW -/

/-- The message words after `M[k] <- v` (R90). -/
theorem State.getElem_setMsgWord_msg (s : State) (k : BitVec 4) (v : Word) {n : Nat} (hn : n < 16) :
    (s.setMsgWord k v).msg[n] = if n = k.toNat then v else s.msg[n] := by
  simp only [State.setMsgWord_msg, Vector.getElem_set, eq_comm]

/-- The bits of MV after `MV[k] <- 1` (R90). -/
theorem State.getLsbD_setValid_mv (s : State) (k : BitVec 4) (n : Nat) :
    (s.setValid k).mv.getLsbD n = if n = k.toNat then true else s.mv.getLsbD n := by
  by_cases h : n = k.toNat
  · have hk : k.toNat < 16 := k.isLt
    simp [h, hk]
  · simp [h, Ne.symm h]

/-- Settles O15: the code of LDW as a number, and the word and the bit its acceptance in IDLE writes. -/
theorem ldwLoadsOneWord : Obligations.LdwLoadsOneWord := by
  refine ⟨fun c k v => ?_, fun s k v hp => ?_⟩
  · have hword : (cmdWord 2 k v).toNat = 0x2000000000 + k.toNat * 2 ^ 32 + v.toNat := by
      rw [cmdWord_toNat]
      simp
    rw [decodeCommand_eq_instr_iff_toNat_eq rfl, hword]
  · exact ⟨_, exec_ldw_of_idle k v hp, rfl, fun n hn =>
      ⟨s.getElem_setMsgWord_msg k v hn, s.getLsbD_setValid_mv k n⟩⟩

/-- Settles O26: by what LDW does in IDLE, and the frame of every command outside it. -/
theorem ldwFrame : Obligations.LdwFrame := by
  intro s s' k v h
  by_cases hp : s.phase = .idle
  · cases (exec_ldw_of_idle k v hp).symm.trans h
    refine ⟨rfl, rfl, rfl, rfl, rfl, rfl, fun n hn hne => ⟨?_, ?_⟩, absurd hp⟩
    · exact (s.getElem_setMsgWord_msg k v hn).trans (if_neg hne)
    · exact (s.getLsbD_setValid_mv k n).trans (if_neg hne)
  · obtain ⟨b, r, rfl⟩ := exec_command_frame_of_not_idle rfl hp h
    exact ⟨rfl, rfl, rfl, rfl, rfl, rfl, fun _ _ _ => ⟨rfl, rfl⟩, fun _ => ⟨rfl, rfl⟩⟩

/-! ### RDD and RDS -/

/-- RDD 0, 1, 2, 3 respond A, B, C, D, in IDLE and in HALT (R91, R93). -/
theorem exec_rdd_words_of_ready {s : State} (hp : s.phase = .idle ∨ s.phase = .halt) :
    exec (.rdd 0) s = .next (s.respond s.acc.a) ∧ exec (.rdd 1) s = .next (s.respond s.acc.b) ∧
    exec (.rdd 2) s = .next (s.respond s.acc.c) ∧ exec (.rdd 3) s = .next (s.respond s.acc.d) :=
  ⟨exec_rdd_of_ready 0 hp, exec_rdd_of_ready 1 hp, exec_rdd_of_ready 2 hp, exec_rdd_of_ready 3 hp⟩

/-- Settles O17: the code of RDD as a number, and the response in IDLE. -/
theorem rddRespondsAnAccumulatorWord : Obligations.RddRespondsAnAccumulatorWord := by
  refine ⟨fun c j => ?_, fun s hp => exec_rdd_words_of_ready (.inl hp)⟩
  have hword : (cmdWord 4 (0#2 ++ j) 0).toNat = 0x4000000000 + j.toNat * 2 ^ 32 := by
    rw [cmdWord_toNat, toNat_zero_append]
    simp
  rw [decodeCommand_eq_instr_iff_toNat_eq rfl, hword]

/-- STATUS without a fault recorded is MV (R17). -/
theorem State.status_toNat_of_fcode_eq_zero {s : State} (hf : s.fcode = 0) : s.status.toNat = s.mv.toNat := by
  rw [State.status, hf]
  exact toNat_zero_append s.mv

/-- The three fields of STATUS (R17). -/
theorem State.status_fields (s : State) :
    s.status.extractLsb' 0 16 = s.mv ∧ s.status.extractLsb' 16 4 = s.fcode ∧ s.status.extractLsb' 20 12 = 0#12 := by
  refine ⟨BitVec.extractLsb'_append_eq_right, ?_, ?_⟩
  · exact (BitVec.extractLsb'_append_eq_of_le le_rfl).trans BitVec.extractLsb'_append_eq_right
  · exact (BitVec.extractLsb'_append_eq_of_le (by decide)).trans BitVec.extractLsb'_append_eq_left

/-- Settles O18: the code of RDS evaluated, and the fields of STATUS, whose FCODE is 0 in a legal IDLE state. -/
theorem rdsRespondsStatus : Obligations.RdsRespondsStatus := by
  refine ⟨fun _ => decodeCommand_eq_instr_iff_eq (by decide), fun s hp => ?_⟩
  obtain ⟨hmv, hfcode, hzero⟩ := s.status_fields
  have hlegal (hs : s.Legal) : s.status.toNat = s.mv.toNat :=
    State.status_toNat_of_fcode_eq_zero (hs.fcode_eq_zero (by simp [hp]))
  exact ⟨s.status, exec_rds_of_ready (.inl hp), hmv, hfcode, hzero, hlegal⟩

/-- A read changes the response register at most, in every phase (R91 to R93, R33; log entry 3). -/
theorem exec_read_frame {s s' : State} {i : Instr} (hi : i = .rds ∨ ∃ j, i = .rdd j) (h : exec i s = .next s') :
    ∃ b r, s' = { s with rspv := b, rsp := r } := by
  by_cases hp : s.phase = .idle
  · rcases hi with rfl | ⟨j, rfl⟩
    · cases (exec_rds_of_ready (.inl hp)).symm.trans h
      exact ⟨_, _, rfl⟩
    · cases (exec_rdd_of_ready j (.inl hp)).symm.trans h
      exact ⟨_, _, rfl⟩
  · have hc : i.isCommand = true := by rcases hi with rfl | ⟨j, rfl⟩ <;> rfl
    exact exec_command_frame_of_not_idle hc hp h

/-- Settles O28: both are reads. -/
theorem readsFrame : Obligations.ReadsFrame := by
  rintro s s' (h | ⟨j, h⟩)
  · obtain ⟨b, r, rfl⟩ := exec_read_frame (.inl rfl) h
    rfl
  · obtain ⟨b, r, rfl⟩ := exec_read_frame (.inr ⟨j, rfl⟩) h
    rfl

/-! ### ILLEGAL words, and transitions in HALT -/

section transition

variable {s s' : State}

/-- A ready engine accepts an ILLEGAL word too (R94, R93). -/
theorem step_of_illegal (hp : s.phase = .idle ∨ s.phase = .halt) (hrst : s.pins.rst = false)
    (hvalid : s.pins.cmdValid = true) (hd : decodeCommand s.pins.cmd = .illegal) :
    step s = .next s.tick.illegalTransition := by
  have hsel : s.select = .illegal := by
    rw [s.select_ready hrst hp, HostPins.selectCommand, if_pos hvalid, hd, Selected.ofDecoded]
  rw [step, hsel]

/-- In HALT an ILLEGAL word is discarded (R93). -/
theorem step_illegal_of_halt (hp : s.phase = .halt) (hrst : s.pins.rst = false) (hvalid : s.pins.cmdValid = true)
    (hd : decodeCommand s.pins.cmd = .illegal) : step s = .next s.tick.clearResponse := by
  rw [step_of_illegal (.inr hp) hrst hvalid hd]
  exact congrArg Host.Outcome.next (s.tick.accept_halt _ _ hp)

/-- Without reset a transition in HALT changes nothing but the response register (R119). -/
theorem step_frame_of_halt (hp : s.phase = .halt) (hrst : s.pins.rst = false) (h : step s = .next s') :
    ∃ b r, s' = { s.tick with rspv := b, rsp := r } := by
  have hidle : s.phase ≠ .idle := by simp [hp]
  rcases step_cases h with ⟨-, hreset, -⟩ | ⟨-, -, hstep, -⟩ | ⟨-, -, hfeed, -⟩ |
    ⟨-, -, ⟨i, -, hc, -, -, hx⟩ | ⟨-, hvalid, hd, -⟩ | ⟨-, -, hs⟩⟩
  · exact absurd hreset (by simp [hrst])
  · exact absurd hstep (by simp [hp])
  · exact absurd hfeed (by simp [hp])
  · exact exec_command_frame_of_not_idle (s := s.tick) hc hidle hx
  · cases (step_illegal_of_halt hp hrst hvalid hd).symm.trans h
    exact ⟨_, _, rfl⟩
  · exact ⟨_, _, hs⟩

end transition

/-- Settles O11: an ILLEGAL word is accepted like a command, and does by phase what R94 and R93 say. -/
theorem illegalWordFaults : Obligations.IllegalWordFaults := by
  intro s p rest hhost hrst hvalid hd
  have htick : s.tick = { s with host := rest } := by rw [State.tick, hhost, List.tail_cons]
  rw [← State.pins_of_host hhost] at hrst hvalid hd
  refine ⟨fun hp => ?_, fun hp => ?_⟩
  · rw [step_of_illegal (.inl hp) hrst hvalid hd, htick]
    exact congrArg Host.Outcome.next (State.accept_idle _ _ _ hp)
  · rw [step_illegal_of_halt hp hrst hvalid hd, htick]
    rfl

/-- Settles O19: the three commands that are discarded, the two that answer as in IDLE, the ILLEGAL word, and the frame of
every transition in HALT. -/
theorem haltDiscardsStateChangingCommands : Obligations.HaltDiscardsStateChangingCommands := by
  intro s hp
  have hready : s.cmdReady = true := by simp [State.cmdReady, State.busy, hp]
  obtain ⟨hA, hB, hC, hD⟩ := exec_rdd_words_of_ready (.inr hp)
  refine ⟨hready, exec_discarded_of_halt (.inl rfl) hp,
    fun k v => exec_discarded_of_halt (.inr (.inl ⟨k, v, rfl⟩)) hp,
    exec_discarded_of_halt (.inr (.inr rfl)) hp, hA, hB, hC, hD, exec_rds_of_ready (.inr hp),
    fun hvalid hd hrst => step_illegal_of_halt hp hrst hvalid hd, fun s' hrst h => ?_⟩
  obtain ⟨b, r, rfl⟩ := step_frame_of_halt hp hrst h
  exact ⟨hp, rfl⟩

end Sys2Proof.Machine
end

section
/-! SUPPORT. The digest protocol at the command level (46_digest_protocol.md R97, R101, R102): what each of its commands does
to an engine in IDLE, and how command lists with known responses are put together to the whole protocol. -/

namespace Sys2Proof.Machine

/-! ### One accepted command -/

/-- A command that leaves the engine in IDLE has no RUN to finish, so it is its acceptance (R7). -/
theorem State.command_of_exec {s s' : State} {c : CmdWord} {i : Instr} (hd : decodeCommand c = .instr i)
    (hx : exec i s = .next s') (hp : s'.phase = .idle) : s.command c = (s', s'.response?) := by
  rw [State.command, State.acceptWord_of_instr s hd, hx, nextOr_next, State.finishRun_of_ready (.inl hp)]

/-- A run and the observed transitions end in the same state. -/
theorem State.observe_fst_of_run {n : Nat} {s s' : State} (h : Host.Core.run Sys2Proof.core n s = .next s') :
    (State.observe n s).1 = s' := by
  induction n generalizing s with
  | zero => exact Host.Outcome.next.inj h
  | succ n ih =>
    obtain ⟨u, hu⟩ := everyStateHasATransition s
    rw [State.observe_succ_of_step n hu]
    exact ih ((run_succ_of_step Sys2Proof.core n s u hu).symm.trans h)

theorem decodeCommand_runWord : decodeCommand runWord = .instr .run := decodeCommand_eq_instr_iff.2 rfl

/-- The pin levels of a RUN ask for no reset. -/
theorem pinsOfCommand_runWord_rst (h : List HostPins) {n : Nat} (hn : n < 66) :
    ((pinsOfCommand runWord ++ h).getD n HostPins.quiet).rst = false := by
  have hpins : pinsOfCommand runWord = HostPins.present runWord :: List.replicate 65 HostPins.quiet :=
    congrArg (HostPins.present runWord :: ·) (if_pos decodeCommand_runWord)
  rw [List.getD_append _ _ _ _ (by simpa [hpins] using hn), hpins]
  cases n with
  | zero => rfl
  | succ n => rw [List.getD_cons_succ, List.getD_replicate _ (by omega)]; rfl

/-- A RUN on a complete block compresses it at the command level, as by its 66 transitions (R7, R84). -/
theorem State.command_runWord {s : State} (hp : s.phase = .idle) (hmv : s.mv = 0xffff) :
    s.command runWord =
      ({ s with
        acc := compress s.acc s.msg
        work := workAfter s.acc s.msg 64
        mv := 0
        t := 0
        rspv := false
        rsp := 0 }, none) := by
  have hrun := (runCompressesTheBlock (s.withHost (pinsOfCommand runWord ++ s.host)) hp hmv rfl
    decodeCommand_runWord fun _ => pinsOfCommand_runWord_rst s.host).1
  have hobs := (State.observe_command runWord s.host (.inl hp)).1
  have hhost := s.command_withHost s.host runWord
  apply Prod.ext
  · calc (s.command runWord).1
        = (s.command runWord).1.withHost s.host := congrArg Prod.fst hhost
      _ = (State.observe 66 (s.withHost (pinsOfCommand runWord ++ s.host))).1 := (congrArg Prod.fst hobs).symm
      _ = _ := State.observe_fst_of_run hrun
  · rw [State.command, State.acceptWord_of_instr s decodeCommand_runWord, exec_run_of_complete hp hmv]
    rfl

/-! ### Command lists with known responses -/

theorem State.commands_append (cs ds : List CmdWord) (s : State) :
    State.commands (cs ++ ds) s =
      ((State.commands ds (State.commands cs s).1).1,
        (State.commands cs s).2 ++ (State.commands ds (State.commands cs s).1).2) := by
  induction cs generalizing s with
  | nil => rfl
  | cons c cs ih => simp only [List.cons_append, State.commands, ih, List.append_assoc]

/-- From every state of P the commands respond the words rs and end in a state of Q. -/
def Responds (cs : List CmdWord) (P : State → Prop) (rs : List Word) (Q : State → Prop) : Prop :=
  ∀ s, P s → (State.commands cs s).2 = rs ∧ Q (State.commands cs s).1

section responds

variable {P Q R : State → Prop}

theorem Responds.of_command {c : CmdWord} {rs : List Word}
    (h : ∀ s, P s → (s.command c).2.toList = rs ∧ Q (s.command c).1) : Responds [c] P rs Q := by
  intro s hs
  obtain ⟨hrs, hQ⟩ := h s hs
  rw [State.commands, hrs]
  exact ⟨List.append_nil rs, hQ⟩

/-- A command that is no RUN: its acceptance in IDLE says it all. -/
theorem Responds.of_exec {c : CmdWord} {i : Instr} {rs : List Word} (hd : decodeCommand c = .instr i)
    (h : ∀ s, P s → ∃ s', exec i s = .next s' ∧ s'.phase = .idle ∧ s'.response?.toList = rs ∧ Q s') :
    Responds [c] P rs Q := by
  refine Responds.of_command fun s hs => ?_
  obtain ⟨s', hx, hp, hrs, hQ⟩ := h s hs
  rw [State.command_of_exec hd hx hp]
  exact ⟨hrs, hQ⟩

theorem Responds.append {cs ds : List CmdWord} {rs rs' : List Word} (hcs : Responds cs P rs Q)
    (hds : Responds ds Q rs' R) : Responds (cs ++ ds) P (rs ++ rs') R := by
  intro s hs
  obtain ⟨hrs, hQ⟩ := hcs s hs
  obtain ⟨hrs', hR⟩ := hds _ hQ
  rw [State.commands_append, hrs, hrs']
  exact ⟨rfl, hR⟩

/-- Command lists without a response, one for each x, that take the states of P b to those of P (g b x). -/
theorem Responds.flatMap {α β : Type} {f : α → List CmdWord} {g : β → α → β} {P : β → State → Prop}
    (h : ∀ b x, Responds (f x) (P b) [] (P (g b x))) (xs : List α) (b : β) :
    Responds (xs.flatMap f) (P b) [] (P (xs.foldl g b)) := by
  induction xs generalizing b with
  | nil => exact fun s hs => ⟨rfl, hs⟩
  | cons x xs ih => exact (h b x).append (ih (g b x))

end responds

/-! ### The commands of the protocol -/

/-- The engine is in IDLE with this accumulator and this fault code. -/
structure IdleWith (acc : Quad) (fcode : BitVec 4) (s : State) : Prop where
  phase : s.phase = .idle
  acc : s.acc = acc
  fcode : s.fcode = fcode

/-- The message words ks hold those of m and are marked valid. -/
def HoldsWords (m : Words) (ks : List (Fin 16)) (s : State) : Prop :=
  ∀ k ∈ ks, s.msg[k] = m[k] ∧ s.mv.getLsbD k = true

section commands

variable {acc : Quad} {fcode : BitVec 4}

theorem responds_initWord : Responds [initWord] (IdleWith acc fcode) [] (IdleWith initialAcc fcode) :=
  Responds.of_exec (decodeCommand_eq_instr_iff.2 rfl) fun _ hs =>
    ⟨_, exec_init_of_idle hs.phase, hs.phase, rfl, hs.phase, rfl, hs.fcode⟩

/-- LDW adds its word to those held (R90). -/
theorem HoldsWords.ldw {m : Words} {ks : List (Fin 16)} {s : State} (h : HoldsWords m ks s) (k : Fin 16) :
    HoldsWords m (k :: ks) ((s.setMsgWord (BitVec.ofNat 4 k.val) m[k]).setValid (BitVec.ofNat 4 k.val)) := by
  intro n hn
  have hk : (BitVec.ofNat 4 k.val).toNat = k.val := Nat.mod_eq_of_lt k.isLt
  have hmsg := s.getElem_setMsgWord_msg (BitVec.ofNat 4 k.val) m[k] n.isLt
  have hmv := s.getLsbD_setValid_mv (BitVec.ofNat 4 k.val) n.val
  rw [hk] at hmsg hmv
  by_cases hnk : n = k
  · subst hnk
    exact ⟨hmsg.trans (if_pos rfl), hmv.trans (if_pos rfl)⟩
  · have hne : n.val ≠ k.val := Fin.val_ne_of_ne hnk
    obtain ⟨hword, hvalid⟩ := h n (List.mem_of_ne_of_mem hnk hn)
    exact ⟨(hmsg.trans (if_neg hne)).trans hword, (hmv.trans (if_neg hne)).trans hvalid⟩

/-- All sixteen words held: the block is m, and it is complete (R12, R80). -/
theorem HoldsWords.complete {m : Words} {ks : List (Fin 16)} {s : State} (h : HoldsWords m ks s)
    (hall : ∀ k, k ∈ ks) : s.msg = m ∧ s.mv = 0xffff := by
  constructor
  · exact Vector.ext fun n hn => (h ⟨n, hn⟩ (hall _)).1
  · have hones : (0xffff : BitVec 16) = BitVec.allOnes 16 := rfl
    refine hones ▸ BitVec.eq_of_getLsbD_eq fun n hn => ?_
    rw [(h ⟨n, hn⟩ (hall _)).2, BitVec.getLsbD_allOnes, decide_eq_true hn]

theorem responds_ldwWord (m : Words) (ks : List (Fin 16)) (k : Fin 16) :
    Responds [ldwWord k.val m[k].toNat] (fun s => IdleWith acc fcode s ∧ HoldsWords m ks s) []
      (fun s => IdleWith acc fcode s ∧ HoldsWords m (k :: ks) s) := by
  have hcode : encode (.ldw (BitVec.ofNat 4 k.val) m[k]) = .cmd (ldwWord k.val m[k].toNat) := by
    rw [← encode_ldw_eq_ldwWord k.isLt m[k].isLt, BitVec.ofNat_toNat, BitVec.setWidth_eq]
  exact Responds.of_exec (decodeCommand_eq_instr_iff.2 hcode) fun s ⟨hs, hks⟩ =>
    ⟨_, exec_ldw_of_idle _ _ hs.phase, hs.phase, rfl, ⟨hs.phase, hs.acc, hs.fcode⟩, hks.ldw k⟩

/-- Sixteen LDW load the block, one word after the other (R42, R97). -/
theorem responds_loadWords (m : Words) :
    Responds (loadWords m) (IdleWith acc fcode) [] (fun s => IdleWith acc fcode s ∧ s.msg = m ∧ s.mv = 0xffff) := by
  intro s hs
  have hload := Responds.flatMap (P := fun ks s => IdleWith acc fcode s ∧ HoldsWords m ks s)
    (responds_ldwWord m) (List.finRange 16) []
  rw [← List.map_eq_flatMap] at hload
  obtain ⟨hrs, hidle, hwords⟩ := hload s ⟨hs, nofun⟩
  exact ⟨hrs, hidle, hwords.complete (by decide)⟩

/-- The end of a RUN keeps IDLE and FCODE. Stated for any two quads, so that no 64 steps are evaluated to see it. -/
theorem IdleWith.runEnd {s : State} (h : IdleWith acc fcode s) (acc' work' : Quad) :
    IdleWith acc' fcode { s with acc := acc', work := work', mv := 0, t := 0, rspv := false, rsp := 0 } :=
  ⟨h.phase, rfl, h.fcode⟩

theorem responds_runWord (m : Words) :
    Responds [runWord] (fun s => IdleWith acc fcode s ∧ s.msg = m ∧ s.mv = 0xffff) []
      (IdleWith (compress acc m) fcode) := by
  refine Responds.of_command fun s ⟨hs, hmsg, hmv⟩ => ?_
  rw [State.command_runWord hs.phase hmv, ← hs.acc, ← hmsg]
  exact ⟨rfl, hs.runEnd _ _⟩

theorem responds_hashBlock (acc : Quad) (p : Block) :
    Responds (hashBlock p) (IdleWith acc fcode) [] (IdleWith (compress acc (blockWords p)) fcode) :=
  (responds_loadWords (blockWords p)).append (responds_runWord (blockWords p))

theorem responds_rddWord {j : Nat} (hj : j < 4) {w : Word}
    (hw : ∀ s : State, s.acc = acc → s.accWord (BitVec.ofNat 2 j) = w) :
    Responds [rddWord j] (IdleWith acc fcode) [w] (IdleWith acc fcode) :=
  Responds.of_exec (decodeCommand_eq_instr_iff.2 (encode_rdd_eq_rddWord hj)) fun s hs =>
    ⟨_, exec_rdd_of_ready _ (.inl hs.phase), hs.phase, congrArg ([·]) (hw s hs.acc), hs.phase, hs.acc, hs.fcode⟩

/-- RDDIG responds the accumulator and leaves it (R91). -/
theorem responds_readDigest :
    Responds readDigest (IdleWith acc fcode) [acc.a, acc.b, acc.c, acc.d] (IdleWith acc fcode) :=
  (responds_rddWord (j := 0) (by decide) fun _ => congrArg Quad.a).append <|
    (responds_rddWord (j := 1) (by decide) fun _ => congrArg Quad.b).append <|
    (responds_rddWord (j := 2) (by decide) fun _ => congrArg Quad.c).append <|
    responds_rddWord (j := 3) (by decide) fun _ => congrArg Quad.d

/-- The whole protocol: INIT, the blocks in order, RDDIG (R97). -/
theorem responds_digestCommands (msg : List Byte) :
    Responds (digestCommands msg) (IdleWith acc fcode)
      [(digestWords msg).a, (digestWords msg).b, (digestWords msg).c, (digestWords msg).d]
      (IdleWith (digestWords msg) fcode) := by
  have hblocks : Responds ((splitBlocks (padded msg)).flatMap hashBlock) (IdleWith initialAcc fcode) []
      (IdleWith (digestWords msg) fcode) :=
    Responds.flatMap (P := fun acc => IdleWith acc fcode) responds_hashBlock _ _
  exact (responds_initWord.append hblocks).append responds_readDigest

end commands

/-! ### The number of commands -/

/-- Sixteen LDW and a RUN. -/
theorem hashBlock_length (p : Block) : (hashBlock p).length = 17 := by
  simp [hashBlock, loadBlock, loadWords]

theorem digestCommands_length (msg : List Byte) :
    (digestCommands msg).length = 1 + 17 * ((msg.length + 8) / 64 + 1) + 4 := by
  have hblocks : ((splitBlocks (padded msg)).flatMap hashBlock).length = 17 * ((msg.length + 8) / 64 + 1) := by
    simp [List.length_flatMap, hashBlock_length, splitBlocks_length, padded_length, Nat.mul_comm]
  rw [digestCommands, List.length_append, List.length_cons, hblocks, Nat.add_comm _ 1]
  rfl

/-- Settles O54: the protocol responds the digest words and keeps IDLE and FCODE, whatever the accumulator was. -/
theorem digestProtocolReturnsTheDigestWords : Obligations.DigestProtocolReturnsTheDigestWords := by
  intro msg s hp
  obtain ⟨hrs, hend⟩ := responds_digestCommands msg s (IdleWith.mk hp rfl rfl)
  exact ⟨hrs, hend.phase, hend.fcode, digestCommands_length msg⟩

end Sys2Proof.Machine
end

section
/-! SUPPORT. HALT and the first fault (60_exceptions.md R119 to R121): the frame of a transition in HALT, as an equation. -/

namespace Sys2Proof.Machine

/-- Settles O50: by the frame of a transition in HALT, whose written response fields are the new state's own. -/
theorem onlyResetLeavesHalt : Obligations.OnlyResetLeavesHalt := by
  intro s s' hp hrst h
  obtain ⟨rspv, rsp, rfl⟩ := step_frame_of_halt hp hrst h
  rfl

end Sys2Proof.Machine
end
